-- ==== Sys2Proof/Word.lean ====
section
/-! DEFINITION. The widths of the device's values (spec/00_scope.md R5, R7, R9) and nothing else: what is computed with
them stands under Sys2Proof/Machine/. All values are unsigned (R7). -/

namespace Sys2Proof

/-- One byte, as a host access carries it (20_memory.md R29). -/
abbrev Byte := BitVec 8

/-- A byte string, index 0 first (00_scope.md R8). -/
abbrev Bytes := List Byte

/-- A host byte address, 16 bits (20_memory.md R28). -/
abbrev Addr := BitVec 16

/-- A Block: "fixed 64-bit quantity" (00_scope.md R5). Also the width of the master key and of IV. -/
abbrev Block := BitVec 64

/-- One half of the network, 32 bits (00_scope.md R5, HALF_BITS). -/
abbrev Half := BitVec 32

/-- One half of the key schedule, 28 bits (00_scope.md R5, KS_HALF_BITS). -/
abbrev KeyHalf := BitVec 28

/-- One subkey, 48 bits (00_scope.md R5, SUBKEY_BITS). -/
abbrev Subkey := BitVec 48

/-- A RoundKeySet: "ordered sequence of 16 subkeys" (10_state.md R21). -/
abbrev RoundKeys := Vector Subkey 16

end Sys2Proof
end

