-- ==== Sys2Proof/Syntax.lean ====
section
/-! DEFINITION. The device's instructions: the fifteen commands of spec/30_encoding.md R44, one constructor per row of
spec/opcode_table.json. A command carries no operand (R47). -/

namespace Sys2Proof

/-- The fifteen commands, in the order of the table of 30_encoding.md R44. -/
inductive Instr where
  | nop | srst
  | keyexp | blkenc | blkdec
  | ecbenc | ecbdec | cbcenc | cbcdec | ctsenc | ctsdec
  | pkenc | pkdec | pksign | pkvfy
  deriving DecidableEq, Repr

end Sys2Proof
end

