-- ==== Sys2Proof/Decode.lean ====
section
/-! DEFINITION. The command decoder, total on all 256 bytes (spec/30_encoding.md R43 to R46), and after it the encoder.
The decoder reads the two fields UNIT and FN (R43, R45); the encoder is written from the byte column of R44. -/

namespace Sys2Proof

/-- Why a byte is no command. Either way the command that carries it raises E_ILLCMD (45_system_commands.md R107). -/
inductive DecodeReject where
  /-- UNIT 0x4 to 0xF (30_encoding.md R43). -/
  | reservedUnit (c : Byte)
  /-- A function the engine named by UNIT does not have (30_encoding.md R45). -/
  | reservedFunction (c : Byte)
  deriving DecidableEq, Repr

/-- Bits 7:4, "which engine" (30_encoding.md R43). -/
def unitField (c : Byte) : BitVec 4 := c.extractLsb' 4 4

/-- Bits 3:0, "the function within the engine" (30_encoding.md R43). -/
def fnField (c : Byte) : BitVec 4 := c.extractLsb' 0 4

/-- FN of UNIT 0: "System (UNIT 0): FN 0 and 1 only" (30_encoding.md R45). -/
def decodeSystem (fn : BitVec 4) : Option Instr :=
  if fn = 0x0 then some .nop
  else if fn = 0x1 then some .srst
  else none

/-- FN of UNIT 1 (30_encoding.md R45): FN[1] = 0 key schedule, FN[1] = 1 block operation with FN[0] its direction;
0x1 and every FN with FN[3:2] ≠ 0 are reserved. -/
def decodeFbc (fn : BitVec 4) : Option Instr :=
  if fn.extractLsb' 2 2 ≠ 0 then none
  else if fn.getLsbD 1 then (if fn.getLsbD 0 then some .blkdec else some .blkenc)
  else if fn.getLsbD 0 then none
  else some .keyexp

/-- FN of UNIT 2 (30_encoding.md R45): FN[3:1] the mode (0 ECB, 1 CBC, 2 CTS; 3 to 7 reserved), FN[0] the direction. -/
def decodeCmc (fn : BitVec 4) : Option Instr :=
  let mode := fn.extractLsb' 1 3
  let dec := fn.getLsbD 0
  if mode = 0 then (if dec then some .ecbdec else some .ecbenc)
  else if mode = 1 then (if dec then some .cbcdec else some .cbcenc)
  else if mode = 2 then (if dec then some .ctsdec else some .ctsenc)
  else none

/-- FN of UNIT 3 (30_encoding.md R45): FN[1:0] the operation (0 encrypt, 1 decrypt, 2 sign, 3 verify); FN[3:2] ≠ 0 is
reserved. -/
def decodeMee (fn : BitVec 4) : Option Instr :=
  if fn.extractLsb' 2 2 ≠ 0 then none
  else
    let op := fn.extractLsb' 0 2
    if op = 0 then some .pkenc
    else if op = 1 then some .pkdec
    else if op = 2 then some .pksign
    else some .pkvfy

/-- The functions of the engine that UNIT names, none for a reserved UNIT (30_encoding.md R43). -/
def decodeUnit (unit : BitVec 4) : Option (BitVec 4 → Option Instr) :=
  if unit = 0x0 then some decodeSystem
  else if unit = 0x1 then some decodeFbc
  else if unit = 0x2 then some decodeCmc
  else if unit = 0x3 then some decodeMee
  else none

/-- The decoder: "reads one byte and needs no state" (30_encoding.md R43), "total on all 256 bytes" (R46). -/
def decode (c : Byte) : Except DecodeReject Instr :=
  match decodeUnit (unitField c) with
  | none => .error (.reservedUnit c)
  | some functions =>
    match functions (fnField c) with
    | none => .error (.reservedFunction c)
    | some i => .ok i

/-- The byte of each command: the column "byte" of 30_encoding.md R44. -/
def encode : Instr → Byte
  | .nop => 0x00
  | .srst => 0x01
  | .keyexp => 0x10
  | .blkenc => 0x12
  | .blkdec => 0x13
  | .ecbenc => 0x20
  | .ecbdec => 0x21
  | .cbcenc => 0x22
  | .cbcdec => 0x23
  | .ctsenc => 0x24
  | .ctsdec => 0x25
  | .pkenc => 0x30
  | .pkdec => 0x31
  | .pksign => 0x32
  | .pkvfy => 0x33

/-- The instruction this decoder reads from a row of spec/opcode_table.json: every row is one byte (format CMD8). -/
def decodeTableWord (nbits w : Nat) : Option Instr :=
  if nbits = 8 ∧ w < 256 then (decode (BitVec.ofNat 8 w)).toOption else none

end Sys2Proof
end

