-- ==== Sys2Proof/Config.lean ====
section
/-! DEFINITION. What an implementation of the device fixes (spec/00_scope.md R6): the two parameters, carried by State so
that every statement about every state is a statement about every device, and the one free value of the spec, the
contents of BUF after a hardware reset (70_reset_and_hazards.md R125). -/

namespace Sys2Proof

/-- The two implementation parameters with the constraints 00_scope.md R6 puts on them. "A model takes both as
arguments (configuration), never as constants folded into a rule." -/
structure Config where
  /-- width in bytes of each of N, E, D, X, Y, H -/
  meeBytes : Nat
  /-- size in bytes of BUF -/
  bufBytes : Nat
  mee_min : 128 ≤ meeBytes
  mee_max : meeBytes ≤ 1024
  buf_min : 32 ≤ bufBytes
  buf_max : bufBytes ≤ 49152
  buf_blocks : bufBytes % 8 = 0
  deriving DecidableEq, Repr

/-- The defaults of 00_scope.md R6 ("default this spec uses in its examples"): 512 and 4096. DESIGN CHOICE, log entry 2:
State.reset is the device with these two; unsafe where that is read as every device. -/
def Config.default : Config where
  meeBytes := 512
  bufBytes := 4096
  mee_min := by decide
  mee_max := by decide
  buf_min := by decide
  buf_max := by decide
  buf_blocks := by decide

/-- FREE VALUE (DESIGN CHOICE, log entry 1; safe). `powerOnByte p off` is what BUF[off] holds after hardware reset number p, until it is
written: "each byte has some value, fixed until written, that no rule constrains" (70_reset_and_hazards.md R125,
93_implementation_defined.md U1). It has no body: nothing can be proved of its value. -/
opaque Config.powerOnByte : Nat → Nat → Byte

end Sys2Proof
end

