-- ==== Sys2Proof/Machine/State.lean ====
section
/-! DEFINITION. The device's state (spec/10_state.md R13: "The complete architectural state of the device is the following
and nothing else"), beside it the model's own side of the host interface, the reasons a step can stop, and the state
after a hardware reset (R26, 70_reset_and_hazards.md R125). -/

namespace Sys2Proof.Machine

/-- What ERR can hold, "and no other value" (60_exceptions.md R109). The byte of each is `ErrCode.code`. -/
inductive ErrCode where
  /-- E_NONE: "every successful command". -/
  | none
  /-- E_ILLCMD: a reserved command byte. -/
  | illcmd
  /-- E_NOKEY: RKVALID = 0. -/
  | nokey
  /-- E_LEN: a length the mode does not take. -/
  | len
  /-- E_BOUNDS: a range passes the end of BUF. -/
  | bounds
  /-- E_OVERLAP: input and output overlap and BE(SRC) ≠ BE(DST). -/
  | overlap
  /-- E_RANGE: operand not below the modulus, or no modulus. -/
  | range
  deriving DecidableEq, Repr

/-- The multi-byte registers a host reaches by byte (10_state.md R13), but for the RK window (`State.rk`). -/
inductive Reg where
  | src | dst | len | outlen
  | key | iv | blkin | blkout
  | n | e | d | x | y | h
  deriving DecidableEq, Repr

/-- What the outside world does to the device, one at a time: the host's two accesses (20_memory.md R29) and the
hardware reset, "an event outside the address map" that "may happen at any time between two host accesses"
(70_reset_and_hazards.md R124). -/
inductive HostEvent where
  /-- HostRead(a). -/
  | read (a : Addr)
  /-- HostWrite(a, b). -/
  | write (a : Addr) (b : Byte)
  /-- A reset input or a power cycle (DESIGN CHOICE, log entry 6; safe). -/
  | hardReset
  deriving DecidableEq, Repr

/-- The machine. CMD has no field: "CMD has no reset value because it holds nothing" (10_state.md R14). There is no
program counter (R24); the host's program stands in `pending`. -/
structure State where
  /-- MEE_BYTES and BUF_BYTES (00_scope.md R6; DESIGN CHOICE, log entry 2): configuration, which "no host access and no command can change" (R27). -/
  cfg : Config
  /-- STATUS bit 0, ERRF (R15). -/
  errf : Bool
  /-- STATUS bit 1, RKVALID (R15). -/
  rkvalid : Bool
  /-- STATUS bit 2, VOK (R15). -/
  vok : Bool
  /-- ERR (R16). -/
  err : ErrCode
  /-- SRC (R17), its value BE(SRC). -/
  src : BitVec 16
  /-- DST (R17). -/
  dst : BitVec 16
  /-- LEN (R17). -/
  len : BitVec 16
  /-- OUTLEN (R17). -/
  outlen : BitVec 16
  /-- KEY (R18), its value BE(KEY). -/
  key : Block
  /-- IV (R19). -/
  iv : Block
  /-- BLKIN (R20). -/
  blkin : Block
  /-- BLKOUT (R20). -/
  blkout : Block
  /-- RK[0..15] (R21). -/
  rk : RoundKeys
  /-- N (R22), MEE_BYTES bytes, the byte at the base address first (DESIGN CHOICE, log entry 9; safe). -/
  n : Bytes
  /-- E (R22). -/
  e : Bytes
  /-- D (R22). -/
  d : Bytes
  /-- X (R22). -/
  x : Bytes
  /-- Y (R22). -/
  y : Bytes
  /-- H (R22). -/
  h : Bytes
  /-- BUF (R23): the bytes written since the last hardware reset, by BUF offset, offsets strictly rising. -/
  buf : List Host.Cell
  /-- The model's own (DESIGN CHOICE, log entry 1; safe): how many hardware resets came before, so that each leaves BUF with contents of its own. -/
  powerOns : Nat
  /-- The model's own (DESIGN CHOICE, log entry 3; safe): what the host will do next, oldest first. -/
  pending : List HostEvent
  /-- The model's own (DESIGN CHOICE, log entry 3; safe): the bytes HostRead has returned, oldest first. -/
  replies : List Byte
  deriving DecidableEq, Repr

/-- Why the device would stop: it never does, so there is no constructor. "The device has no stuck state, no hang and no
undefined outcome" (60_exceptions.md R123); a command that fails goes on, with ERRF and ERR set (R108, R112). DEDUCED, log entry 7. Safe. -/
inductive Fault : Type
  deriving DecidableEq, Repr

/-- Why the model would give an instruction no meaning. -/
inductive Refusal where
  /-- Raised by an arm of `exec` whose instruction has no meaning yet; no arm is left that does. Safe: the run stops. -/
  | notModelled (mnemonic : String)
  deriving DecidableEq, Repr

/-- The device with parameters `c` after hardware reset number `p` (10_state.md R26, 70_reset_and_hazards.md R125):
every register zero, no byte of BUF written yet, nothing pending. -/
def State.afterPowerOn (c : Config) (p : Nat) : State where
  cfg := c
  errf := false
  rkvalid := false
  vok := false
  err := .none
  src := 0
  dst := 0
  len := 0
  outlen := 0
  key := 0
  iv := 0
  blkin := 0
  blkout := 0
  rk := Vector.replicate 16 0
  n := List.replicate c.meeBytes 0
  e := List.replicate c.meeBytes 0
  d := List.replicate c.meeBytes 0
  x := List.replicate c.meeBytes 0
  y := List.replicate c.meeBytes 0
  h := List.replicate c.meeBytes 0
  buf := []
  powerOns := p
  pending := []
  replies := []

/-- The machine right after reset: the default parameters (log entry 2), the device's initial hardware reset. -/
def State.reset : State := State.afterPowerOn Config.default 0

end Sys2Proof.Machine
end

