-- ==== Sys2Proof/Machine/Flags.lean ====
section
/-! DEFINITION. The STATUS byte (spec/10_state.md R15) and the byte of each error code (60_exceptions.md R109). -/

namespace Sys2Proof.Machine

/-- The byte ERR holds for each code (60_exceptions.md R109). -/
def ErrCode.code : ErrCode → Byte
  | .none => 0x00
  | .illcmd => 0x01
  | .nokey => 0x02
  | .len => 0x03
  | .bounds => 0x04
  | .overlap => 0x05
  | .range => 0x06

/-- STATUS as read: `ERRF | RKVALID << 1 | VOK << 2`, bits 7:3 zero (20_memory.md R30). -/
def State.statusByte (s : State) : Byte :=
  (BitVec.ofBool s.errf).setWidth 8 ||| ((BitVec.ofBool s.rkvalid).setWidth 8 <<< 1)
    ||| ((BitVec.ofBool s.vok).setWidth 8 <<< 2)

end Sys2Proof.Machine
end

