-- ==== Sys2Proof/Machine/Operands.lean ====
section
/-! DEFINITION. Byte strings and their values (spec/00_scope.md R8, R9; 20_memory.md R33), and the operand forms of the
device: every operand is a register (30_encoding.md R47), read and written as its byte string (00_scope.md R10). -/

namespace Sys2Proof.Machine

/-! ### Byte strings -/

/-- BE(s): "the unsigned integer whose big-endian representation is the byte string s"; 0 for the empty string (R9). -/
def BE : Bytes → Nat := List.foldl (fun acc b => 256 * acc + b.toNat) 0

/-- ToBE(v, k): the k-byte string s with BE(s) = v (R9), which asks for v < 256^k; every call of it meets that
(DESIGN CHOICE, log entry 10; safe). -/
def toBE (v : Nat) : Nat → Bytes
  | 0 => []
  | k + 1 => BitVec.ofNat 8 (v >>> (8 * k)) :: toBE v k

/-- `s[a..b)`: "the bytes with index a ≤ i < b" (R8). -/
def slice (s : Bytes) (a b : Nat) : Bytes := (s.take b).drop a

/-- `zeros(k)`: "a string of k bytes 0x00" (R8). -/
def zeros (k : Nat) : Bytes := List.replicate k 0

/-- Xor(a, b) of 43_chaining.md R81, "c[i] = a[i] xor b[i]". -/
def xorBytes (a b : Bytes) : Bytes := List.zipWith (· ^^^ ·) a b

/-- The w-bit value whose byte string is `s`. -/
def ofBytes (w : Nat) (s : Bytes) : BitVec w := BitVec.ofNat w (BE s)

/-- The byte string of a w-bit value, most significant byte first (20_memory.md R33). -/
def bytesOf {w : Nat} (v : BitVec w) : Bytes := toBE v.toNat (w / 8)

/-! ### The registers as the host sees them -/

/-- All multi-byte registers, in address order. -/
def Reg.all : List Reg :=
  [.src, .dst, .len, .outlen, .key, .iv, .blkin, .blkout, .n, .e, .d, .x, .y, .h]

/-- A register's base address (10_state.md R13, 20_memory.md R28). -/
def Reg.base : Reg → Nat
  | .src => 0x0004
  | .dst => 0x0006
  | .len => 0x0008
  | .outlen => 0x000A
  | .key => 0x0010
  | .iv => 0x0018
  | .blkin => 0x0020
  | .blkout => 0x0028
  | .n => 0x1000
  | .e => 0x1400
  | .d => 0x1800
  | .x => 0x1C00
  | .y => 0x2000
  | .h => 0x2400

/-- A register's width in bytes (10_state.md R13). -/
def Reg.width (c : Config) : Reg → Nat
  | .src | .dst | .len | .outlen => 2
  | .key | .iv | .blkin | .blkout => 8
  | .n | .e | .d | .x | .y | .h => c.meeBytes

/-- Whether a host write reaches the register (the column "access" of 20_memory.md R28): OUTLEN, BLKOUT and Y are R. -/
def Reg.hostWritable : Reg → Bool
  | .src | .dst | .len | .key | .iv | .blkin | .n | .e | .d | .x | .h => true
  | .outlen | .blkout | .y => false

/-- `REG`: "the register's current value: a byte string for multi-byte registers" (00_scope.md R10). -/
def State.regBytes (s : State) : Reg → Bytes
  | .src => bytesOf s.src
  | .dst => bytesOf s.dst
  | .len => bytesOf s.len
  | .outlen => bytesOf s.outlen
  | .key => bytesOf s.key
  | .iv => bytesOf s.iv
  | .blkin => bytesOf s.blkin
  | .blkout => bytesOf s.blkout
  | .n => s.n
  | .e => s.e
  | .d => s.d
  | .x => s.x
  | .y => s.y
  | .h => s.h

/-- `REG <- v` (00_scope.md R10), v the register's whole byte string. No side effect: the KEY write's is `dropRoundKeys`. -/
def State.putReg (s : State) (r : Reg) (v : Bytes) : State :=
  match r with
  | .src => { s with src := ofBytes 16 v }
  | .dst => { s with dst := ofBytes 16 v }
  | .len => { s with len := ofBytes 16 v }
  | .outlen => { s with outlen := ofBytes 16 v }
  | .key => { s with key := ofBytes 64 v }
  | .iv => { s with iv := ofBytes 64 v }
  | .blkin => { s with blkin := ofBytes 64 v }
  | .blkout => { s with blkout := ofBytes 64 v }
  | .n => { s with n := v }
  | .e => { s with e := v }
  | .d => { s with d := v }
  | .x => { s with x := v }
  | .y => { s with y := v }
  | .h => { s with h := v }

/-- RK[i] as the host reads it: "6 bytes, big-endian" (10_state.md R21). -/
def State.rkBytes (s : State) (i : Nat) : Bytes := bytesOf (s.rk[i]?.getD 0)

end Sys2Proof.Machine
end

