-- ==== Sys2Proof/Machine/Ops.lean ====
section
/-! DEFINITION. The operations the commands share: how a command ends (spec/60_exceptions.md R108, R112, R113), BUF
(20_memory.md R35, 00_scope.md R10), the address map (R28) and the accesses that are no command (R30 to R32). -/

namespace Sys2Proof.Machine

/-! ### How a command ends -/

/-- Failure entry, the device's only form of taking an exception (60_exceptions.md R112): `ERRF <- 1; ERR <- code;
VOK <- 0` "and nothing else". Nothing is saved and control goes nowhere (R108, R112). -/
def State.raise (s : State) (c : ErrCode) : State :=
  { s with errf := true, err := c, vok := false }

/-- Successful completion (60_exceptions.md R113): `ERRF <- 0; ERR <- 0x00; VOK <- 0`. There is no return from a failure
(R114): the next success erases its record. -/
def State.succeed (s : State) : State :=
  { s with errf := false, err := .none, vok := false }

/-- What a KEY write does beside the byte: `RKVALID <- 0` and `RK[i] <- 0` for all i (10_state.md R18). -/
def State.dropRoundKeys (s : State) : State :=
  { s with rkvalid := false, rk := Vector.replicate 16 0 }

/-! ### BUF -/

/-- The byte listed at an offset; none where nothing has been written since the hardware reset. -/
def Memory.lookup : List Host.Cell → Nat → Option Byte
  | [], _ => none
  | c :: m, a => if c.1 = a then some c.2 else Memory.lookup m a

/-- The cells of a byte string laid at offset `off`. -/
def Memory.cells (off : Nat) : Bytes → List Host.Cell
  | [] => []
  | b :: bs => (off, b) :: Memory.cells (off + 1) bs

/-- The list with the bytes `bs` written at `off`: what lies below, the new bytes, what lies above. -/
def Memory.writeBytes (m : List Host.Cell) (off : Nat) (bs : Bytes) : List Host.Cell :=
  m.filter (fun c => decide (c.1 < off)) ++ Memory.cells off bs
    ++ m.filter (fun c => decide (off + bs.length ≤ c.1))

/-- The canonical form: offsets strictly rising. An unlisted offset has no written value, so no entry repeats it. -/
abbrev Memory.wf (m : List Host.Cell) : Prop := m.Pairwise (fun c c' => c.1 < c'.1)

/-- `BUF[off]`: the byte written there, or the free value the hardware reset left (10_state.md R23; log entry 1). -/
def State.bufByte (s : State) (off : Nat) : Byte :=
  (Memory.lookup s.buf off).getD (Config.powerOnByte s.powerOns off)

/-- MemRead(off, n): "the n-byte string BUF[off] .. BUF[off+n-1]" (00_scope.md R10). -/
def State.memRead (s : State) (off n : Nat) : Bytes :=
  (List.range n).map fun i => s.bufByte (off + i)

/-- MemWrite(off, len(out), out): "BUF[off+i] <- s[i]" (00_scope.md R10). -/
def State.memWrite (s : State) (off : Nat) (out : Bytes) : State :=
  { s with buf := Memory.writeBytes s.buf off out }

/-! ### The address map -/

/-- What a host address names (20_memory.md R28). -/
inductive Place where
  | cmd
  | status
  | err
  /-- byte i of a multi-byte register, 0 the most significant -/
  | reg (r : Reg) (i : Nat)
  /-- byte j of RK[i] -/
  | rk (i j : Nat)
  /-- BUF[off] -/
  | buf (off : Nat)
  | reserved
  deriving DecidableEq, Repr

/-- The map of 20_memory.md R28. -/
def locate (c : Config) (a : Nat) : Place :=
  if a = 0x0000 then .cmd
  else if a = 0x0001 then .status
  else if a = 0x0002 then .err
  else if 0x0040 ≤ a ∧ a < 0x00A0 then .rk ((a - 0x0040) / 6) ((a - 0x0040) % 6)
  else if 0x4000 ≤ a ∧ a < 0x4000 + c.bufBytes then .buf (a - 0x4000)
  else
    match Reg.all.find? (fun r => decide (r.base ≤ a) && decide (a < r.base + r.width c)) with
    | some r => .reg r (a - r.base)
    | none => .reserved

/-- HostRead(a): the byte returned, "without changing any state" (20_memory.md R30). -/
def State.hostRead (s : State) (a : Addr) : Byte :=
  match locate s.cfg a.toNat with
  | .cmd => 0x00
  | .status => s.statusByte
  | .err => s.err.code
  | .reg r i => (s.regBytes r).getD i 0
  | .rk i j => (s.rkBytes i).getD j 0
  | .buf off => s.bufByte off
  | .reserved => 0x00

/-- HostWrite(a, b) at any address but CMD's (20_memory.md R31): a writable register's byte, a byte of KEY with its side
effect (10_state.md R18), a byte of BUF, or no effect (R32; DESIGN CHOICE, log entry 8). At CMD it stores nothing (R14); the command is `hostWrite`'s. -/
def State.storeByte (s : State) (a : Addr) (b : Byte) : State :=
  match locate s.cfg a.toNat with
  | .reg r i =>
    if r.hostWritable then
      let s' := s.putReg r ((s.regBytes r).set i b)
      if r = .key then s'.dropRoundKeys else s'
    else s
  | .buf off => s.memWrite off [b]
  | .cmd => s
  | .status => s
  | .err => s
  | .rk _ _ => s
  | .reserved => s

end Sys2Proof.Machine
end

