-- ==== Sys2Proof/Machine/KeySchedule.lean ====
section
/-! DEFINITION. The key schedule generator and KEYEXP (spec/41_key_schedule.md R70 to R74). -/

namespace Sys2Proof.Machine

/-- Rotl28(v, s) = `((v << s) | (v >> (28 - s))) mod 2^28` (R70). -/
def rotl28 (v : KeyHalf) (s : Nat) : KeyHalf := (v <<< s) ||| (v >>> (28 - s))

/-- SHIFTS[0..15] (R71): "the canonical shift schedule". -/
def shifts : List Nat := [1, 1, 2, 2, 2, 2, 2, 2] ++ [1, 2, 2, 2, 2, 2, 2, 1]

/-- The halves (C, D) before any rotation (R72): bits 55:28 and 27:0 of PC1's output. -/
def keyHalves0 (K : Block) : KeyHalf × KeyHalf :=
  let cd := permute 56 K tablePC1
  (cd.extractLsb' 28 28, cd.extractLsb' 0 28)

/-- The subkeys of the rounds that the listed shift amounts stand for (R72): each round rotates the halves the round
before it left, within their own 28 bits, and then takes its subkey from `C || D`. -/
def subkeysFrom : KeyHalf × KeyHalf → List Nat → List Subkey
  | _, [] => []
  | (C, D), s :: ss =>
    let C' := rotl28 C s
    let D' := rotl28 D s
    permute 48 (C' ++ D') tablePC2 :: subkeysFrom (C', D') ss

/-- One subkey for each shift amount. -/
theorem subkeysFrom_length (h : KeyHalf × KeyHalf) (ss : List Nat) : (subkeysFrom h ss).length = ss.length := by
  induction ss generalizing h with
  | nil => rfl
  | cons s ss ih => simp [subkeysFrom, ih]

/-- KeySchedule(K) (R72): sixteen subkeys, "any 64-bit input is accepted". -/
def keySchedule (K : Block) : RoundKeys :=
  ⟨⟨subkeysFrom (keyHalves0 K) shifts⟩, subkeysFrom_length (keyHalves0 K) shifts⟩

/-- KEYEXP (R74): `RK <- KeySchedule(BE(KEY)); RKVALID <- 1; succeed`. It cannot fail. -/
def execKeyexp (s : State) : Host.Outcome State Fault Refusal :=
  .next { s with rk := keySchedule s.key, rkvalid := true }.succeed

end Sys2Proof.Machine
end

