-- ==== Sys2Proof/Machine/BlockCipher.lean ====
section
/-! DEFINITION. The 16-round network, BLKENC and BLKDEC (spec/42_block_cipher.md R75 to R80). -/

namespace Sys2Proof.Machine

/-- F(R, k) (R75): expand, xor with the subkey, the eight S-boxes, P. -/
def roundF (R : Half) (k : Subkey) : Half :=
  let x := permute 48 R tableE
  let y := x ^^^ k
  let z := sboxLayer y
  permute 32 z tableP

/-- The rounds of the listed subkeys: each does `(L, R) = (R, L xor F(R, k))`, "both from the old L and R" (R76). -/
def rounds : Half × Half → List Subkey → Half × Half
  | LR, [] => LR
  | (L, R), k :: ks => rounds (R, L ^^^ roundF R k) ks

/-- The network over a sequence of subkeys (R76): IP, the rounds, one swap after the last, FP. -/
def network (B : Block) (ks : List Subkey) : Block :=
  let v := permute 64 B tableIP
  let LR := rounds (v.extractLsb' 32 32, v.extractLsb' 0 32) ks
  permute 64 (LR.2 ++ LR.1) tableFP

/-- EncryptBlock(B, k) (R76): subkeys 0 to 15. -/
def encryptBlock (B : Block) (k : RoundKeys) : Block := network B k.toList

/-- DecryptBlock(B, k) (R77): "subkey 15 first, subkey 0 last". -/
def decryptBlock (B : Block) (k : RoundKeys) : Block := network B k.toList.reverse

/-- BLKENC and BLKDEC but for the direction (R79, R80): E_NOKEY without a RoundKeySet, else BLKOUT is written. -/
def State.blockCommand (s : State) (cipher : Block → RoundKeys → Block) : State :=
  if s.rkvalid then { s with blkout := cipher s.blkin s.rk }.succeed else s.raise .nokey

/-- BLKENC (R79). -/
def execBlkenc (s : State) : Host.Outcome State Fault Refusal := .next (s.blockCommand encryptBlock)

/-- BLKDEC (R80). -/
def execBlkdec (s : State) : Host.Outcome State Fault Refusal := .next (s.blockCommand decryptBlock)

end Sys2Proof.Machine
end

