-- ==== Sys2Proof/Machine/Chaining.lean ====
section
/-! DEFINITION. The chaining mode controller (spec/43_chaining.md R81 to R94): the mode functions on byte strings, the
checks of every CMC command, the six commands. -/

namespace Sys2Proof.Machine

/-! ### Helpers (R81) -/

/-- E8(b) (R81), b of 8 bytes. -/
def e8 (k : RoundKeys) (b : Bytes) : Bytes := bytesOf (encryptBlock (ofBytes 64 b) k)

/-- D8(b) (R81), b of 8 bytes. -/
def d8 (k : RoundKeys) (b : Bytes) : Bytes := bytesOf (decryptBlock (ofBytes 64 b) k)

/-- Blk(s, j) = `s[8*j .. 8*j+8)` (R81). -/
def blk (s : Bytes) (j : Nat) : Bytes := slice s (8 * j) (8 * j + 8)

/-- ceil(n / 8). -/
def ceil8 (n : Nat) : Nat := (n + 7) / 8

/-- Blk(s, 0), Blk(s, 1), …: the whole blocks of s in order. -/
def wholeBlocks (s : Bytes) : List Bytes := (List.range (s.length / 8)).map (blk s)

/-! ### Mode functions -/

/-- EcbEnc(p) (R83): zero-padded to whole blocks, each encrypted by itself. -/
def ecbEnc (k : RoundKeys) (p : Bytes) : Bytes :=
  let q := p ++ zeros (8 * ceil8 p.length - p.length)
  ((wholeBlocks q).map (e8 k)).flatten

/-- EcbDec(c) (R84). "No padding is removed." -/
def ecbDec (k : RoundKeys) (c : Bytes) : Bytes := ((wholeBlocks c).map (d8 k)).flatten

/-- The loop of CbcEnc (R85): each block xored with the chain value and encrypted; the result is the next chain value. -/
def cbcEncBlocks (k : RoundKeys) (chain : Bytes) : List Bytes → Bytes
  | [] => []
  | b :: bs =>
    let c := e8 k (xorBytes b chain)
    c ++ cbcEncBlocks k c bs

/-- CbcEnc(iv, p) (R85). -/
def cbcEnc (k : RoundKeys) (iv p : Bytes) : Bytes := cbcEncBlocks k iv (wholeBlocks p)

/-- The loop of CbcDec (R86): the next chain value is "the ciphertext block as read from the input, not the output". -/
def cbcDecBlocks (k : RoundKeys) (chain : Bytes) : List Bytes → Bytes
  | [] => []
  | b :: bs => xorBytes (d8 k b) chain ++ cbcDecBlocks k b bs

/-- CbcDec(iv, c) (R86). -/
def cbcDec (k : RoundKeys) (iv c : Bytes) : Bytes := cbcDecBlocks k iv (wholeBlocks c)

/-- CtsEnc(iv, p) (R87): CbcEnc for whole blocks, else ciphertext stealing. -/
def ctsEnc (k : RoundKeys) (iv p : Bytes) : Bytes :=
  let n := p.length
  if n % 8 = 0 then cbcEnc k iv p
  else
    let r := n % 8
    let m := ceil8 n
    let head := cbcEnc k iv (slice p 0 (8 * (m - 2)))
    let chain := if m > 2 then slice head (head.length - 8) head.length else iv
    let cp := e8 k (xorBytes (blk p (m - 2)) chain)
    let last := slice p (8 * (m - 1)) n ++ zeros (8 - r)
    let cn := e8 k (xorBytes last cp)
    head ++ cn ++ slice cp 0 r

/-- CtsDec(iv, c) (R88): CbcDec for whole blocks, else the inverse of the stealing; with one whole block before the short
one (m = 2) the preceding chain value is the IV (90_conflicts.md C3). -/
def ctsDec (k : RoundKeys) (iv c : Bytes) : Bytes :=
  let n := c.length
  if n % 8 = 0 then cbcDec k iv c
  else
    let r := n % 8
    let m := ceil8 n
    let head := cbcDec k iv (slice c 0 (8 * (m - 2)))
    let chain := if m > 2 then blk c (m - 3) else iv
    let cn := blk c (m - 2)
    let t := slice c (8 * (m - 1)) n
    let dn := d8 k cn
    let cp := t ++ slice dn r 8
    let p2 := xorBytes (d8 k cp) chain
    let pl := xorBytes (slice dn 0 r) t
    head ++ p2 ++ pl

/-! ### The checks (R82) -/

/-- The modes of FN[3:1] (30_encoding.md R45). -/
inductive CmcMode where
  | ecb | cbc | cts
  deriving DecidableEq, Repr

/-- The directions of FN[0] (30_encoding.md R45). -/
inductive CmcDir where
  | enc | dec
  deriving DecidableEq, Repr

/-- What CmcChecks returns: `(s, d, n_in, n_out)`. -/
structure CmcRanges where
  src : Nat
  dst : Nat
  nIn : Nat
  nOut : Nat
  deriving DecidableEq, Repr

/-- Whether a length is one the mode refuses with E_LEN (R82, the three checks of n_in): 0 for every command, no multiple
of 8 for CBCENC, CBCDEC and ECBDEC, below 8 for CTSENC and CTSDEC. -/
def cmcBadLen (m : CmcMode) (dir : CmcDir) (nIn : Nat) : Bool :=
  match m, dir with
  | .ecb, .enc => nIn == 0
  | .ecb, .dec => nIn == 0 || nIn % 8 != 0
  | .cbc, .enc => nIn == 0 || nIn % 8 != 0
  | .cbc, .dec => nIn == 0 || nIn % 8 != 0
  | .cts, .enc => nIn == 0 || nIn < 8
  | .cts, .dec => nIn == 0 || nIn < 8

/-- n_out (R82): `8 * ceil(n_in / 8)` for ECBENC, else n_in. -/
def cmcOutLen (m : CmcMode) (dir : CmcDir) (nIn : Nat) : Nat :=
  match m, dir with
  | .ecb, .enc => 8 * ceil8 nIn
  | .ecb, .dec => nIn
  | .cbc, .enc => nIn
  | .cbc, .dec => nIn
  | .cts, .enc => nIn
  | .cts, .dec => nIn

/-- CmcChecks(cmd) (R82): the checks in their order, range ends "in unbounded integer arithmetic" (20_memory.md R35). -/
def State.cmcChecks (s : State) (m : CmcMode) (dir : CmcDir) : Except ErrCode CmcRanges :=
  let nIn := s.len.toNat
  let nOut := cmcOutLen m dir nIn
  let a := s.src.toNat
  let d := s.dst.toNat
  if s.rkvalid = false then .error .nokey
  else if cmcBadLen m dir nIn then .error .len
  else if a + nIn > s.cfg.bufBytes ∨ d + nOut > s.cfg.bufBytes then .error .bounds
  else if a ≠ d ∧ a < d + nOut ∧ d < a + nIn then .error .overlap
  else .ok ⟨a, d, nIn, nOut⟩

/-! ### The six commands -/

/-- The template of 43_chaining.md section 3: the checks; "the input is read whole; the output is written whole; OUTLEN
records the output length". -/
def State.cmcCommand (s : State) (m : CmcMode) (dir : CmcDir) (f : Bytes → Bytes) : State :=
  match s.cmcChecks m dir with
  | .error c => s.raise c
  | .ok r =>
    { s.memWrite r.dst (f (s.memRead r.src r.nIn)) with outlen := BitVec.ofNat 16 r.nOut }.succeed

/-- ECBENC (R89). -/
def execEcbenc (s : State) : Host.Outcome State Fault Refusal :=
  .next (s.cmcCommand .ecb .enc (ecbEnc s.rk))

/-- ECBDEC (R90). -/
def execEcbdec (s : State) : Host.Outcome State Fault Refusal :=
  .next (s.cmcCommand .ecb .dec (ecbDec s.rk))

/-- CBCENC (R91). -/
def execCbcenc (s : State) : Host.Outcome State Fault Refusal :=
  .next (s.cmcCommand .cbc .enc (cbcEnc s.rk (s.regBytes .iv)))

/-- CBCDEC (R92). -/
def execCbcdec (s : State) : Host.Outcome State Fault Refusal :=
  .next (s.cmcCommand .cbc .dec (cbcDec s.rk (s.regBytes .iv)))

/-- CTSENC (R93). -/
def execCtsenc (s : State) : Host.Outcome State Fault Refusal :=
  .next (s.cmcCommand .cts .enc (ctsEnc s.rk (s.regBytes .iv)))

/-- CTSDEC (R94). -/
def execCtsdec (s : State) : Host.Outcome State Fault Refusal :=
  .next (s.cmcCommand .cts .dec (ctsDec s.rk (s.regBytes .iv)))

end Sys2Proof.Machine
end

