-- ==== Sys2Proof/Machine/ModExp.lean ====
section
/-! DEFINITION. The modular exponentiation engine (spec/44_modexp.md R97 to R102). -/

namespace Sys2Proof.Machine

/-- How many bits an exponent has, from its most significant set bit down (R97); 0 for exponent 0. -/
def bitCount (x : Nat) : Nat := if x = 0 then 0 else x.log2 + 1

/-- The square-and-multiply loop of R97 over bits i-1 down to 0 of the exponent, r the value so far. -/
def modExpLoop (b x n : Nat) : Nat → Nat → Nat
  | 0, r => r
  | i + 1, r =>
    let sq := r * r % n
    modExpLoop b x n i (if x.testBit i then sq * b % n else sq)

/-- ModExp(b, x, n) (R97), exact on unbounded integers; called with n ≥ 1 only (R99 to R102). -/
def modExp (b x n : Nat) : Nat := modExpLoop b x n (bitCount x) (1 % n)

/-- `Y <- ToBE(r, MEE_BYTES)` (R98). -/
def State.putY (s : State) (r : Nat) : State := { s with y := toBE r s.cfg.meeBytes }

/-- PKENC, PKDEC and PKSIGN but for the exponent register (R99 to R101): E_RANGE unless X is below the modulus. -/
def State.pkCommand (s : State) (exponent : Bytes) : State :=
  let n := BE s.n
  let b := BE s.x
  if n = 0 ∨ n ≤ b then s.raise .range else (s.putY (modExp b (BE exponent) n)).succeed

/-- PKENC (R99): c = m^e mod n. -/
def execPkenc (s : State) : Host.Outcome State Fault Refusal := .next (s.pkCommand s.e)

/-- PKDEC (R100): m = c^d mod n. -/
def execPkdec (s : State) : Host.Outcome State Fault Refusal := .next (s.pkCommand s.d)

/-- PKSIGN (R101): s = h^d mod n; "the arithmetic is that of PKDEC". -/
def execPksign (s : State) : Host.Outcome State Fault Refusal := .next (s.pkCommand s.d)

/-- PKVFY (R102): h' = s^e mod n, "no check that s < n"; Y is written and VOK is 1 exactly when h' = BE(H). A mismatch is
a success with VOK = 0 (60_exceptions.md R115). -/
def State.pkVerify (s : State) : State :=
  let n := BE s.n
  if n = 0 then s.raise .range
  else
    let hp := modExp (BE s.x) (BE s.e) n
    { (s.putY hp).succeed with vok := decide (hp = BE s.h) }

/-- PKVFY (R102). -/
def execPkvfy (s : State) : Host.Outcome State Fault Refusal := .next s.pkVerify

end Sys2Proof.Machine
end

