-- ==== Sys2Proof/Machine/System.lean ====
section
/-! DEFINITION. NOP, SRST, the reserved command byte (spec/45_system_commands.md R105 to R107), and the hardware reset
(70_reset_and_hazards.md R124 to R126). -/

namespace Sys2Proof.Machine

/-- Every register of 10_state.md R13 at its reset value (R26, 45_system_commands.md R106); BUF, the configuration and
the model's own fields as they are. -/
def State.clearRegisters (s : State) : State :=
  { s with
    errf := false, rkvalid := false, vok := false, err := .none
    src := 0, dst := 0, len := 0, outlen := 0
    key := 0, iv := 0, blkin := 0, blkout := 0
    rk := Vector.replicate 16 0
    n := zeros s.cfg.meeBytes, e := zeros s.cfg.meeBytes, d := zeros s.cfg.meeBytes
    x := zeros s.cfg.meeBytes, y := zeros s.cfg.meeBytes, h := zeros s.cfg.meeBytes }

/-- NOP (R105): "It reads nothing and writes nothing except the status of every command". -/
def execNop (s : State) : Host.Outcome State Fault Refusal := .next s.succeed

/-- SRST (R106): every register to its reset value, "BUF is not changed". -/
def execSrst (s : State) : Host.Outcome State Fault Refusal := .next s.clearRegisters

/-- A reserved command byte (R107): "raise E_ILLCMD ... nothing else changes". -/
def State.reservedCommand (s : State) : State := s.raise .illcmd

/-- A hardware reset (70_reset_and_hazards.md R124, R125): the registers as SRST leaves them (R126), every byte of BUF
unspecified anew. -/
def State.hardwareReset (s : State) : State :=
  { s.clearRegisters with buf := [], powerOns := s.powerOns + 1 }

end Sys2Proof.Machine
end

