-- ==== Sys2Proof/Machine/Dispatch.lean ====
section
/-! DEFINITION. One arm per command, in the order of spec/opcode_table.json: steps 2 to 4 of the execution template of
spec/30_encoding.md R48. -/

namespace Sys2Proof.Machine

/-- What a command does (30_encoding.md R48). -/
def exec (i : Instr) (s : State) : Host.Outcome State Fault Refusal :=
  match i with
  | .nop => Sys2Proof.Machine.execNop s
  | .srst => Sys2Proof.Machine.execSrst s
  | .keyexp => Sys2Proof.Machine.execKeyexp s
  | .blkenc => Sys2Proof.Machine.execBlkenc s
  | .blkdec => Sys2Proof.Machine.execBlkdec s
  | .ecbenc => Sys2Proof.Machine.execEcbenc s
  | .ecbdec => Sys2Proof.Machine.execEcbdec s
  | .cbcenc => Sys2Proof.Machine.execCbcenc s
  | .cbcdec => Sys2Proof.Machine.execCbcdec s
  | .ctsenc => Sys2Proof.Machine.execCtsenc s
  | .ctsdec => Sys2Proof.Machine.execCtsdec s
  | .pkenc => Sys2Proof.Machine.execPkenc s
  | .pkdec => Sys2Proof.Machine.execPkdec s
  | .pksign => Sys2Proof.Machine.execPksign s
  | .pkvfy => Sys2Proof.Machine.execPkvfy s

end Sys2Proof.Machine
end

