-- ==== Sys2Proof/Machine/HostAccess.lean ====
section
/-! DEFINITION. What one host event does (spec/00_scope.md R11, 20_memory.md R29 to R31, 70_reset_and_hazards.md R124): the
device "takes a step only as the effect of a host write to CMD". -/

namespace Sys2Proof.Machine

/-- A host write of byte c to CMD (30_encoding.md R48): decode, and one whole command as one step; a byte that decodes to
no command raises E_ILLCMD (45_system_commands.md R107). -/
def issueCommand (c : Byte) (s : State) : Host.Outcome State Fault Refusal :=
  match decode c with
  | .ok i => exec i s
  | .error _ => .next s.reservedCommand

/-- HostWrite(a, b) (20_memory.md R31): the CMD address issues a command, every other address stores or ignores. -/
def hostWrite (a : Addr) (b : Byte) (s : State) : Host.Outcome State Fault Refusal :=
  match locate s.cfg a.toNat with
  | .cmd => issueCommand b s
  | .status => .next (s.storeByte a b)
  | .err => .next (s.storeByte a b)
  | .reg _ _ => .next (s.storeByte a b)
  | .rk _ _ => .next (s.storeByte a b)
  | .buf _ => .next (s.storeByte a b)
  | .reserved => .next (s.storeByte a b)

/-- One host event. A read changes nothing of the device (20_memory.md R30); its byte goes to `replies`. -/
def hostEvent (ev : HostEvent) (s : State) : Host.Outcome State Fault Refusal :=
  match ev with
  | .read a => .next { s with replies := s.replies ++ [s.hostRead a] }
  | .write a b => hostWrite a b s
  | .hardReset => .next s.hardwareReset

/-- The next thing the host does, taken from the front of `pending`. With nothing pending the device stays as it is: it
"takes a step only as the effect of a host write" (00_scope.md R11; DESIGN CHOICE, log entry 4; safe). -/
def hostStep (s : State) : Host.Outcome State Fault Refusal :=
  match s.pending with
  | [] => .next s
  | ev :: rest => hostEvent ev { s with pending := rest }

/-- The state with one command byte as the host's next access: the CMD write that carries it (30_encoding.md R48). -/
def State.withCommand (s : State) (c : Byte) : State :=
  { s with pending := .write 0x0000 c :: s.pending }

end Sys2Proof.Machine
end

