-- ==== Sys2Proof/Machine/Step.lean ====
section
/-! DEFINITION. One step of the machine: one host event (spec/00_scope.md R11). -/

namespace Sys2Proof.Machine

/-- One step: the host's next access, a command being one whole step of its own (00_scope.md R11). -/
def step (s : State) : Host.Outcome State Fault Refusal := hostStep s

/-- `s` with an instruction word of spec/opcode_table.json where the next step takes it: the device fetches nothing
(10_state.md R24), so it is the host's next write to CMD (DESIGN CHOICE, log entry 5; safe). -/
def State.withFetchWord (s : State) (_nbits w : Nat) : State := s.withCommand (BitVec.ofNat 8 w)

end Sys2Proof.Machine
end

