-- ==== Sys2Proof/Safety.lean ====
section
/-! DEFINITION. The terms claims use: the invariant of every reachable state, the conditions under which a command
executes, and what it means that a command wrote an output to BUF. -/

namespace Sys2Proof.Machine

/-- Each MEE register is MEE_BYTES bytes (10_state.md R22). -/
structure State.MeeWidths (s : State) : Prop where
  n : s.n.length = s.cfg.meeBytes
  e : s.e.length = s.cfg.meeBytes
  d : s.d.length = s.cfg.meeBytes
  x : s.x.length = s.cfg.meeBytes
  y : s.y.length = s.cfg.meeBytes
  h : s.h.length = s.cfg.meeBytes

/-- "RKVALID = 1 implies RK[i] = KeySchedule(BE(KEY))[i] for all i, and RKVALID = 0 implies RK[i] = 0 for all i"
(10_state.md R21). -/
structure State.RoundKeysCurrent (s : State) : Prop where
  valid : s.rkvalid = true → s.rk = keySchedule s.key
  invalid : s.rkvalid = false → ∀ i : Fin 16, s.rk[i] = 0

/-- "ERRF = 1 exactly when ERR ≠ 0x00" (10_state.md R16), and VOK only after a success (R15). -/
structure State.StatusConsistent (s : State) : Prop where
  errf : s.errf = true ↔ s.err.code ≠ 0x00
  vok : s.vok = true → s.errf = false

/-- BUF's list is in canonical form and inside BUF (10_state.md R23). -/
structure State.BufCanonical (s : State) : Prop where
  rising : Memory.wf s.buf
  inside : ∀ c ∈ s.buf, c.1 < s.cfg.bufBytes

/-- OUTLEN is 0 or "the number of bytes [a CMC command] wrote at DST" (10_state.md R17), which fit in BUF. -/
abbrev State.OutlenFits (s : State) : Prop := s.outlen.toNat ≤ s.cfg.bufBytes

/-- What every reachable state satisfies. -/
structure State.Inv (s : State) : Prop where
  widths : s.MeeWidths
  roundKeys : s.RoundKeysCurrent
  status : s.StatusConsistent
  buf : s.BufCanonical
  outlen : s.OutlenFits

/-- The ranges `[BE(SRC), BE(SRC) + nIn)` and `[BE(DST), BE(DST) + nOut)` lie in BUF, and they start together or are
disjoint (20_memory.md R35, R36): the last two checks of 43_chaining.md R82 pass. -/
structure State.RangesAccepted (s : State) (nIn nOut : Nat) : Prop where
  srcFits : s.src.toNat + nIn ≤ s.cfg.bufBytes
  dstFits : s.dst.toNat + nOut ≤ s.cfg.bufBytes
  apart : s.src = s.dst ∨ s.src.toNat + nIn ≤ s.dst.toNat ∨ s.dst.toNat + nOut ≤ s.src.toNat

/-- The input of a CMC command: the LEN bytes of BUF at SRC. -/
def State.cmcInput (s : State) : Bytes := s.memRead s.src.toNat s.len.toNat

/-- `t` is `s` after a successful CMC command that wrote `out` at DST: those bytes of BUF, OUTLEN and the status of a
success; every other register, every other byte of BUF, the configuration and the host's side as before. -/
structure WroteOutput (s : State) (out : Bytes) (t : State) : Prop where
  frame : t = { s with
    buf := t.buf, outlen := BitVec.ofNat 16 out.length, errf := false, err := .none, vok := false }
  length : t.outlen.toNat = out.length
  written : ∀ j, j < out.length → t.bufByte (s.dst.toNat + j) = out.getD j 0
  kept : ∀ a, a < s.dst.toNat ∨ s.dst.toNat + out.length ≤ a → t.bufByte a = s.bufByte a

/-- The outcome of a failing command (60_exceptions.md R112): ERRF, ERR and VOK, "and nothing else". -/
abbrev FailedWith (s : State) (c : ErrCode) : State := { s with errf := true, err := c, vok := false }

/-- `t` is what a CMC command leaves of `s`, when `badLen` says that its mode refuses the length, `nOut` is n_out and
`out` its output: the first failing check of 43_chaining.md R82 and nothing else, or the output written. -/
structure CmcOutcome (s : State) (badLen : Prop) (nOut : Nat) (out : Bytes) (t : State) : Prop where
  noKey : s.rkvalid = false → t = FailedWith s .nokey
  badLength : s.rkvalid = true → badLen → t = FailedWith s .len
  outOfBounds : s.rkvalid = true → ¬ badLen →
    s.cfg.bufBytes < s.src.toNat + s.len.toNat ∨ s.cfg.bufBytes < s.dst.toNat + nOut → t = FailedWith s .bounds
  overlapping : s.rkvalid = true → ¬ badLen →
    s.src.toNat + s.len.toNat ≤ s.cfg.bufBytes → s.dst.toNat + nOut ≤ s.cfg.bufBytes → s.src ≠ s.dst →
    s.src.toNat < s.dst.toNat + nOut → s.dst.toNat < s.src.toNat + s.len.toNat → t = FailedWith s .overlap
  success : s.rkvalid = true → ¬ badLen → s.RangesAccepted s.len.toNat nOut →
    WroteOutput s out t ∧ out.length = nOut

/-- The bytes R107 lists as reserved. -/
abbrev ReservedByte (c : Byte) : Prop :=
  (0x02 ≤ c.toNat ∧ c.toNat ≤ 0x0F) ∨ c.toNat = 0x11 ∨ (0x14 ≤ c.toNat ∧ c.toNat ≤ 0x1F) ∨
    (0x26 ≤ c.toNat ∧ c.toNat ≤ 0x2F) ∨ (0x34 ≤ c.toNat ∧ c.toNat ≤ 0xFF)

/-- The reserved host addresses of 20_memory.md R28. -/
abbrev ReservedAddress (c : Config) (a : Nat) : Prop :=
  a = 0x0003 ∨ (0x000C ≤ a ∧ a ≤ 0x000F) ∨ (0x0030 ≤ a ∧ a ≤ 0x003F) ∨ (0x00A0 ≤ a ∧ a ≤ 0x0FFF) ∨
    (0x1000 + c.meeBytes ≤ a ∧ a < 0x1400) ∨ (0x1400 + c.meeBytes ≤ a ∧ a < 0x1800) ∨
    (0x1800 + c.meeBytes ≤ a ∧ a < 0x1C00) ∨ (0x1C00 + c.meeBytes ≤ a ∧ a < 0x2000) ∨
    (0x2000 + c.meeBytes ≤ a ∧ a < 0x2400) ∨ (0x2400 + c.meeBytes ≤ a ∧ a < 0x2800) ∨
    (0x2800 ≤ a ∧ a ≤ 0x3FFF) ∨ (0x4000 + c.bufBytes ≤ a ∧ a ≤ 0xFFFF)

/-- The read-only addresses of 20_memory.md R28: STATUS, ERR, OUTLEN, BLKOUT, RK, Y. -/
abbrev ReadOnlyAddress (c : Config) (a : Nat) : Prop :=
  a = 0x0001 ∨ a = 0x0002 ∨ (0x000A ≤ a ∧ a ≤ 0x000B) ∨ (0x0028 ≤ a ∧ a ≤ 0x002F) ∨
    (0x0040 ≤ a ∧ a ≤ 0x009F) ∨ (0x2000 ≤ a ∧ a < 0x2000 + c.meeBytes)

/-- The addresses a host write stores at with no other effect (20_memory.md R31): the writable registers but KEY, and BUF. -/
abbrev PlainWritable (c : Config) (a : Nat) : Prop :=
  (0x0004 ≤ a ∧ a ≤ 0x0009) ∨ (0x0018 ≤ a ∧ a ≤ 0x0027) ∨ (0x1000 ≤ a ∧ a < 0x1000 + c.meeBytes) ∨
    (0x1400 ≤ a ∧ a < 0x1400 + c.meeBytes) ∨ (0x1800 ≤ a ∧ a < 0x1800 + c.meeBytes) ∨
    (0x1C00 ≤ a ∧ a < 0x1C00 + c.meeBytes) ∨ (0x2400 ≤ a ∧ a < 0x2400 + c.meeBytes) ∨
    (0x4000 ≤ a ∧ a < 0x4000 + c.bufBytes)

end Sys2Proof.Machine
end

