-- ==== Sys2Proof/Machine/HostProgram.lean ====
section
/-! DEFINITION. The host's notation (spec/30_encoding.md R49, R50) and the byte accesses each line stands for, and the byte
accesses of a wider bus access (20_memory.md R29). "The notation adds no behaviour" (92_eei_decisions.md D28): a program
runs as the events it expands to, placed in `pending`. -/

namespace Sys2Proof.Machine

/-- What a listing says of the byte a read returns. -/
inductive Check where
  /-- nothing -/
  | any
  /-- the byte -/
  | byte (b : Byte)
  /-- its bit 0 alone -/
  | bit0 (v : Bool)
  deriving DecidableEq, Repr

/-- Whether a returned byte is as the listing says. -/
def Check.holds : Check → Byte → Bool
  | .any, _ => true
  | .byte b, r => decide (r = b)
  | .bit0 v, r => r.getLsbD 0 == v

/-- One line of a host program: the three lines of R49 and the pseudo-instructions of R50. `want` is the byte or the byte
string the listing states, where it states one. `RD reg`, for which R50 lists no registers, is `rd` for the multi-byte registers
and `rdrk` for RK[i]; the one-byte STATUS, ERR and CMD are read by `rb` (DESIGN CHOICE, log entry 14; safe). -/
inductive HostLine where
  | wb (a : Addr) (b : Byte)
  | rb (a : Addr) (want : Option Byte)
  | cmd (i : Instr)
  | ld (r : Reg) (s : Bytes)
  | ldi (r : Reg) (v : Nat)
  | ldt (r : Reg) (s : Bytes)
  | rdt (r : Reg) (n : Nat) (want : Option Bytes)
  | ldbuf (off : Nat) (s : Bytes)
  | rd (r : Reg) (want : Option Bytes)
  | rdrk (i : Fin 16) (want : Option Bytes)
  | rdbuf (off n : Nat) (want : Option Bytes)
  | expectOk
  | expectFail (c : ErrCode)
  deriving DecidableEq, Repr

/-- The register's byte `i` as a host address: "KEY+3 being 0x0013" (R49). -/
def Reg.addr (r : Reg) (i : Nat) : Addr := BitVec.ofNat 16 (r.base + i)

/-- A byte of BUF as a host address: "BUF+k being 0x4000 + k" (R49). -/
def bufAddr (k : Nat) : Addr := BitVec.ofNat 16 (0x4000 + k)

/-- A byte of RK[i] as a host address: "RK[i]+j being 0x0040 + 6·i + j" (R49). -/
def rkAddr (i j : Nat) : Addr := BitVec.ofNat 16 (0x0040 + 6 * i + j)

/-- Byte writes "in ascending address order" (R50; of a wider bus write, 20_memory.md R29). A run past 0xFFFF goes on at
0x0000, where the spec is silent (DESIGN CHOICE, log entry 13; unsafe). -/
def writeRun (a : Addr) : Bytes → List HostEvent
  | [] => []
  | b :: bs => .write a b :: writeRun (a + 1) bs

/-- Byte reads in ascending address order (R50; 20_memory.md R29). A run past 0xFFFF goes on at 0x0000, as `writeRun`'s
does (DESIGN CHOICE, log entry 13; unsafe). -/
def readRun (a : Addr) : Nat → List HostEvent
  | 0 => []
  | n + 1 => .read a :: readRun (a + 1) n

/-- Each access with nothing said of its reply. -/
def unchecked (evs : List HostEvent) : List (HostEvent × Check) := evs.map fun ev => (ev, .any)

/-- Byte reads with the byte string the listing states, where it states one. -/
def checkedReads (a : Addr) (n : Nat) : Option Bytes → List (HostEvent × Check)
  | none => unchecked (readRun a n)
  | some s => (readRun a n).zip (s.map .byte)

/-- The expansion of each line (R49, R50). -/
def expand (c : Config) : HostLine → List (HostEvent × Check)
  | .wb a b => [(.write a b, .any)]
  | .rb a none => [(.read a, .any)]
  | .rb a (some b) => [(.read a, .byte b)]
  | .cmd i => [(.write 0x0000 (encode i), .any)]
  | .ld r s => unchecked (writeRun (r.addr 0) s)
  | .ldi r v => unchecked (writeRun (r.addr 0) (toBE v c.meeBytes))
  | .ldt r s => unchecked (writeRun (r.addr (c.meeBytes - s.length)) s)
  | .rdt r n want => checkedReads (r.addr (c.meeBytes - n)) n want
  | .ldbuf off s => unchecked (writeRun (bufAddr off) s)
  | .rd r want => checkedReads (r.addr 0) (r.width c) want
  | .rdrk i want => checkedReads (rkAddr i 0) 6 want
  | .rdbuf off n want => checkedReads (bufAddr off) n want
  | .expectOk => [(.read 0x0001, .bit0 false), (.read 0x0002, .byte 0x00)]
  | .expectFail e => [(.read 0x0001, .bit0 true), (.read 0x0002, .byte e.code)]

/-- The accesses of a whole program, in order. -/
def programEvents (c : Config) (p : List HostLine) : List HostEvent :=
  (p.flatMap (expand c)).map (·.1)

/-- What the listing says of the replies, one entry for each read. -/
def programChecks (c : Config) (p : List HostLine) : List Check :=
  (p.flatMap (expand c)).filterMap fun
    | (.read _, k) => some k
    | (.write _ _, _) => none
    | (.hardReset, _) => none

/-- Whether the replies to a program's reads are those its listing states. -/
def repliesMeet (ks : List Check) (rs : List Byte) : Bool :=
  decide (ks.length = rs.length) && (ks.zip rs).all fun kr => kr.1.holds kr.2

/-- The machine with a host program as what the host does next (DESIGN CHOICE, log entry 5; safe). -/
def State.withProgram (s : State) (p : List HostLine) : State :=
  { s with pending := programEvents s.cfg p ++ s.pending }

end Sys2Proof.Machine
end

