-- ==== Sys2Proof/WellFormed.lean ====
section
/-! DEFINITION. Which terms of the syntax stand for something (spec/30_encoding.md R47, R49, R50). -/

namespace Sys2Proof

open Machine

/-- A command "carries no operand, no register number and no immediate" (30_encoding.md R47): there is nothing to check. -/
def Instr.wf : Instr → Bool
  | .nop => true
  | .srst => true
  | .keyexp => true
  | .blkenc => true
  | .blkdec => true
  | .ecbenc => true
  | .ecbdec => true
  | .cbcenc => true
  | .cbcdec => true
  | .ctsenc => true
  | .ctsdec => true
  | .pkenc => true
  | .pkdec => true
  | .pksign => true
  | .pkvfy => true

namespace Machine

/-- "reg one of N, E, D, X, H" (30_encoding.md R50, LDI and LDT). -/
def Reg.isMeeOperand : Reg → Bool
  | .n | .e | .d | .x | .h => true
  | .src | .dst | .len | .outlen | .key | .iv | .blkin | .blkout | .y => false

/-- "reg one of N, E, D, X, Y, H" (30_encoding.md R50, RDT). -/
def Reg.isMee : Reg → Bool
  | .n | .e | .d | .x | .y | .h => true
  | .src | .dst | .len | .outlen | .key | .iv | .blkin | .blkout => false

/-- The string a listing states is as long as what is read. -/
def wantLength (n : Nat) : Option Bytes → Bool
  | none => true
  | some s => decide (s.length = n)

/-- The conditions R50 puts on a line: the register's width, its kind, a value that fits, a range inside BUF
(DEDUCED, log entry 12; safe). -/
def HostLine.wf (c : Config) : HostLine → Bool
  | .wb _ _ => true
  | .rb _ _ => true
  | .cmd i => i.wf
  | .ld r s => r.hostWritable && decide (s.length = r.width c)
  | .ldi r v => r.isMeeOperand && decide (v < 256 ^ c.meeBytes)
  | .ldt r s => r.isMeeOperand && decide (s.length ≤ c.meeBytes)
  | .rdt r n want => r.isMee && decide (n ≤ c.meeBytes) && wantLength n want
  | .ldbuf off s => decide (off + s.length ≤ c.bufBytes)
  | .rd r want => wantLength (r.width c) want
  | .rdrk _ want => wantLength 6 want
  | .rdbuf off n want => decide (off + n ≤ c.bufBytes) && wantLength n want
  | .expectOk => true
  | .expectFail e => decide (e ≠ .none)

end Machine

end Sys2Proof
end

