-- ==== Sys2Proof/Certificates/Slice0/Obligations.lean ====
section
/-! DEFINITION. The statements for the provers. Each docstring names the rules of spec/ it formalises. -/

open Sys2Proof Sys2Proof.Machine

/-! ### Encoding and the step -/

/-- 30_encoding.md R44: the fifteen bytes decode to the fifteen commands, and the other 241 to none. -/
def Obligations.CommandBytesDecodeAsListed : Prop :=
  (∀ p ∈ [(0x00, Instr.nop), (0x01, .srst), (0x10, .keyexp), (0x12, .blkenc), (0x13, .blkdec), (0x20, .ecbenc),
      (0x21, .ecbdec), (0x22, .cbcenc), (0x23, .cbcdec), (0x24, .ctsenc), (0x25, .ctsdec), (0x30, .pkenc),
      (0x31, .pkdec), (0x32, .pksign), (0x33, .pkvfy)], decode (BitVec.ofNat 8 p.1) = .ok p.2) ∧
    ((List.range 256).filter fun c => !(decode (BitVec.ofNat 8 c)).isOk).length = 241

/-- 30_encoding.md R43 to R46: a byte decodes to a well-formed command exactly when it is that command's byte. -/
def Obligations.DecodeAndEncodeAgree : Prop :=
  ∀ (c : Byte) (i : Instr), i.wf = true → (decode c = .ok i ↔ encode i = c)

/-- 30_encoding.md R48, 00_scope.md R11: when the host's next access writes to CMD a byte that decodes to i, the step is
exec of i with that access taken from the queue; the queue is the model's (log entry 3). The same through
`withFetchWord` (log entry 5). -/
def Obligations.StepRunsTheIssuedCommand : Prop :=
  (∀ (s : State) (c : Byte) (i : Instr) (rest : List HostEvent), i.wf = true → decode c = .ok i →
    s.pending = .write 0x0000 c :: rest → step s = exec i { s with pending := rest }) ∧
  (∀ (s : State) (i : Instr), step (s.withFetchWord 8 (encode i).toNat) = exec i s)

/-- 45_system_commands.md R107: every reserved byte raises E_ILLCMD, and nothing else changes. -/
def Obligations.ReservedBytesRaiseIllcmd : Prop :=
  ∀ (s : State) (c : Byte), ReservedByte c →
    hostWrite 0x0000 c s = .next { s with errf := true, err := .illcmd, vok := false } ∧
    (FailedWith s .illcmd).hostRead 0x0002 = 0x01

/-- 60_exceptions.md R123: in every state every host access has a next state: no stop and no stuck state. So have the
hardware reset, which the model makes one of the host's events (log entry 6), and every step, one with nothing pending
included (log entry 4). -/
def Obligations.EveryHostEventHasANextState : Prop :=
  (∀ (s : State) (ev : HostEvent), ∃ t, hostEvent ev s = .next t) ∧ (∀ s : State, ∃ t, step s = .next t)

/-- 10_state.md R27: no step changes the two parameters, which the model carries in State (log entry 2). -/
def Obligations.ParametersNeverChange : Prop :=
  ∀ s t : State, step s = .next t → t.cfg = s.cfg

/-- 20_memory.md R29: of a wider bus write that covers address 0x0000 "the device sees only the bytes": the command is issued
when the CMD byte arrives, with the bytes at higher addresses still to be written. The queue is the model's (log entry 3),
and so is where a write past 0xFFFF goes on (log entry 13). -/
def Obligations.WideWriteIssuesTheCommandFirst : Prop :=
  ∀ (s : State) (c : Byte) (bs : Bytes), s.pending = writeRun 0x0000 (c :: bs) →
    step s = issueCommand c { s with pending := writeRun 0x0001 bs }

/-! ### Host accesses -/

/-- 20_memory.md R30: what HostRead returns at every address, "without changing any state" (every field but the model's
own `replies`); the last clause says that the clauses on addresses cover all. -/
def Obligations.HostReadReturnsTheMappedByte : Prop :=
  ∀ s : State,
    (∀ a : Addr, ∃ t, hostEvent (.read a) s = .next t ∧ t = { s with replies := t.replies }) ∧
    s.hostRead 0x0000 = 0x00 ∧
    (s.hostRead 0x0001).toNat = s.errf.toNat + 2 * s.rkvalid.toNat + 4 * s.vok.toNat ∧
    s.hostRead 0x0002 = s.err.code ∧
    (∀ (r : Reg) (i : Nat), i < r.width s.cfg → s.hostRead (r.addr i) = (s.regBytes r).getD i 0) ∧
    (∀ (i : Fin 16) (j : Nat), j < 6 → s.hostRead (rkAddr i j) = (toBE (s.rk[i]).toNat 6).getD j 0) ∧
    (∀ off, off < s.cfg.bufBytes → s.hostRead (bufAddr off) = s.bufByte off) ∧
    (∀ a : Addr, ReservedAddress s.cfg a.toNat → s.hostRead a = 0x00) ∧
    (∀ a : Addr, a = 0x0000 ∨ a = 0x0001 ∨ a = 0x0002 ∨ (∃ (r : Reg) (i : Nat), i < r.width s.cfg ∧ a = r.addr i) ∨
      (∃ i j, i < 16 ∧ j < 6 ∧ a = rkAddr i j) ∨ (∃ off, off < s.cfg.bufBytes ∧ a = bufAddr off) ∨
      ReservedAddress s.cfg a.toNat)

/-- 20_memory.md R30 ("without changing any state") and R37: a read leaves the device as it was; in the model its byte joins
`replies` (log entry 3). -/
def Obligations.ReadsHaveNoSideEffect : Prop :=
  ∀ (s : State) (a : Addr) (rest : List HostEvent), s.pending = .read a :: rest →
    step s = .next { s with pending := rest, replies := s.replies ++ [s.hostRead a] }

/-- 20_memory.md R31: a write to SRC, DST, LEN, IV, BLKIN, N, E, D, X, H or BUF stores its byte; every other address reads
as before, STATUS and ERR among them. -/
def Obligations.PlainWriteStoresOneByte : Prop :=
  ∀ (s : State) (a : Addr) (b : Byte), s.MeeWidths → PlainWritable s.cfg a.toNat →
    ∃ t, hostWrite a b s = .next t ∧ t.hostRead a = b ∧ (∀ a', a' ≠ a → t.hostRead a' = s.hostRead a') ∧
      t.rk = s.rk ∧ t.cfg = s.cfg ∧ t.pending = s.pending ∧ t.replies = s.replies ∧ t.powerOns = s.powerOns

/-- 10_state.md R18: a write to any KEY byte, whatever the value, stores the byte, clears RKVALID and all of RK, and
changes nothing else. -/
def Obligations.KeyWriteDropsTheRoundKeys : Prop :=
  ∀ (s : State) (i : Nat) (b : Byte), i < 8 →
    ∃ t, hostWrite (Reg.key.addr i) b s = .next t ∧
      t = { s with key := t.key, rkvalid := false, rk := Vector.replicate 16 0 } ∧
      (∀ j, j < 8 → t.hostRead (Reg.key.addr j) = if j = i then b else s.hostRead (Reg.key.addr j))

/-- 20_memory.md R32: reserved addresses read as 0x00 and ignore writes; read-only registers ignore writes. -/
def Obligations.ReservedAndReadOnlyIgnoreWrites : Prop :=
  ∀ (s : State) (a : Addr) (b : Byte),
    (ReservedAddress s.cfg a.toNat → s.hostRead a = 0x00 ∧ hostWrite a b s = .next s) ∧
    (ReadOnlyAddress s.cfg a.toNat → hostWrite a b s = .next s)

/-- 30_encoding.md R50 (LD): the writes it expands to leave the register holding the string; for every register but KEY
nothing else of the registers changes, and `LD KEY` clears RKVALID. R50's LD row lists SRC, DST, LEN, KEY, IV and BLKIN;
that LD takes N, E, D, X and H as well is the model's deduction (log entry 12), and the queue is the model's (log entry 3). -/
def Obligations.LdLoadsTheWholeRegister : Prop :=
  ∀ (s : State) (r : Reg) (v : Bytes), s.MeeWidths → (HostLine.ld r v).wf s.cfg = true → s.pending = [] →
    ∃ t, Sys2Proof.core.run v.length (s.withProgram [.ld r v]) = .next t ∧ t.regBytes r = v ∧ t.pending = [] ∧
      (∀ q, q ≠ r → t.regBytes q = s.regBytes q) ∧ t.rkvalid = (s.rkvalid && decide (r ≠ .key)) ∧ t.buf = s.buf

/-! ### Invariants -/

/-- 10_state.md R26, 70_reset_and_hazards.md R125: after a hardware reset of a device with any parameters the invariant
holds, State.reset (the default parameters, log entry 2) among those states. -/
def Obligations.InvHoldsAfterReset : Prop :=
  (∀ (c : Config) (p : Nat), (State.afterPowerOn c p).Inv) ∧ State.reset.Inv

/-- Every step keeps the invariant: register widths (10_state.md R22), RK and RKVALID (R21), ERRF and ERR (R16, R109), VOK
(R15), BUF's canonical form (R23; the form is the model's, log entry 1), OUTLEN within BUF (R17). -/
def Obligations.EveryStepKeepsInv : Prop :=
  ∀ s t : State, s.Inv → step s = .next t → t.Inv

/-- 10_state.md R21, "Invariant over every reachable state", and R16's: whatever the parameters, whatever the host does and
however many steps. What the host does stands in the model's queue (log entry 3). -/
def Obligations.ReachableStatesKeepRoundKeysAndStatus : Prop :=
  ∀ (c : Config) (p : Nat) (evs : List HostEvent) (k : Nat) (t : State),
    Sys2Proof.core.run k { State.afterPowerOn c p with pending := evs } = .next t →
      (t.rkvalid = true → t.rk = keySchedule t.key) ∧ (t.rkvalid = false → ∀ i : Fin 16, t.rk[i] = 0) ∧
      (t.errf = true ↔ t.hostRead 0x0002 ≠ 0x00)

/-! ### How commands end -/

/-- 60_exceptions.md R112: a command that ends with ERRF set has changed ERRF, ERR and VOK and nothing else, and left one of
the six codes; so has a byte written to CMD, reserved ones among them. -/
def Obligations.FailureChangesTheStatusOnly : Prop :=
  (∀ (i : Instr) (s t : State), exec i s = .next t → t.errf = true →
    ∃ c : ErrCode, t = FailedWith s c ∧ 0x01 ≤ c.code.toNat ∧ c.code.toNat ≤ 0x06) ∧
  (∀ (b : Byte) (s t : State), hostWrite 0x0000 b s = .next t → t.errf = true →
    ∃ c : ErrCode, t = FailedWith s c ∧ 0x01 ≤ c.code.toNat ∧ c.code.toNat ≤ 0x06)

/-- 60_exceptions.md R113, 10_state.md R15: a success leaves ERR 0x00, and VOK is set exactly by a PKVFY whose recovered
value equals H. -/
def Obligations.SuccessClearsTheRecord : Prop :=
  ∀ (i : Instr) (s t : State), exec i s = .next t →
    (t.errf = false → t.err.code = 0x00) ∧
    (t.vok = true ↔ i = .pkvfy ∧ BE s.n ≠ 0 ∧ BE s.x ^ BE s.e % BE s.n = BE s.h)

/-- 45_system_commands.md R105: NOP clears ERRF, ERR and VOK and has no other effect. -/
def Obligations.NopClearsTheStatusOnly : Prop :=
  ∀ s : State, ∃ t, exec .nop s = .next t ∧ t = { s with errf := false, err := .none, vok := false } ∧
    t.hostRead 0x0001 = (if s.rkvalid then 0x02 else 0x00) ∧ t.hostRead 0x0002 = 0x00 ∧
    ∀ a : Addr, a ≠ 0x0001 → a ≠ 0x0002 → t.hostRead a = s.hostRead a

/-- 45_system_commands.md R106: SRST puts every register to its reset value and does not change BUF: the state is that
after a hardware reset but for BUF; and "it is the only command that writes KEY, IV, BLKIN, N, E, D, X, H, SRC, DST or
LEN". -/
def Obligations.SoftResetKeepsBufOnly : Prop :=
  (∀ s : State, ∃ t, exec .srst s = .next t ∧
    t = { State.afterPowerOn s.cfg s.powerOns with buf := s.buf, pending := s.pending, replies := s.replies } ∧
    (∀ a : Addr, a.toNat < 0x4000 → t.hostRead a = 0x00) ∧
    (∀ a : Addr, 0x4000 ≤ a.toNat → t.hostRead a = s.hostRead a)) ∧
  (∀ (i : Instr) (s t : State), i ≠ .srst → exec i s = .next t →
    t.key = s.key ∧ t.iv = s.iv ∧ t.blkin = s.blkin ∧ t.n = s.n ∧ t.e = s.e ∧ t.d = s.d ∧ t.x = s.x ∧ t.h = s.h ∧
      t.src = s.src ∧ t.dst = s.dst ∧ t.len = s.len)

/-- 70_reset_and_hazards.md R124 to R126: a hardware reset between two host accesses leaves every register as SRST does;
BUF alone differs: no byte of it is known (in the model, nothing listed and the next power-on count, log entry 1). The
reset as an event in the queue is the model's (log entry 6). -/
def Obligations.HardwareResetAgreesWithSoftReset : Prop :=
  ∀ (s : State) (rest : List HostEvent), s.pending = .hardReset :: rest →
    ∃ t u, step s = .next t ∧ exec .srst { s with pending := rest } = .next u ∧
      t = { u with buf := [], powerOns := s.powerOns + 1 } ∧ (∀ a : Addr, a.toNat < 0x4000 → t.hostRead a = 0x00)

/-- 10_state.md R15, the writers of RKVALID and of RK (R21): in any step only KEYEXP can set RKVALID, and only KEYEXP, a
write to a KEY byte, SRST and a hardware reset can change RKVALID or RK. The queue is the model's (log entry 3). -/
def Obligations.OnlyKeyEventsChangeTheRoundKeys : Prop :=
  ∀ (s t : State) (ev : HostEvent) (rest : List HostEvent), s.pending = ev :: rest → step s = .next t →
    (s.rkvalid = false → t.rkvalid = true → ev = .write 0x0000 0x10) ∧
    (t.rkvalid ≠ s.rkvalid ∨ t.rk ≠ s.rk →
      ev = .write 0x0000 0x10 ∨ ev = .write 0x0000 0x01 ∨ ev = .hardReset ∨
        ∃ a b, ev = .write a b ∧ 0x0010 ≤ a.toNat ∧ a.toNat ≤ 0x0017)

/-- 00_scope.md R12: a command's result is a function of the architectural state: what the host has queued and what it has
read (the model's own fields, log entry 3) change nothing of it. -/
def Obligations.CommandsIgnoreTheHostsQueue : Prop :=
  ∀ (i : Instr) (s t : State) (p : List HostEvent) (r : List Byte), exec i s = .next t →
    exec i { s with pending := p, replies := r } = .next { t with pending := p, replies := r }

/-- 44_modexp.md, preamble ("it shares no register with the FBC or the CMC"): the outcome of a PK command depends on the
MEE registers alone. -/
def Obligations.PkCommandsDependOnMeeRegistersOnly : Prop :=
  ∀ (i : Instr) (s s' t t' : State), i ∈ [Instr.pkenc, .pkdec, .pksign, .pkvfy] →
    s.cfg = s'.cfg → s.n = s'.n → s.e = s'.e → s.d = s'.d → s.x = s'.x → s.y = s'.y → s.h = s'.h →
    exec i s = .next t → exec i s' = .next t' →
    t.y = t'.y ∧ t.errf = t'.errf ∧ t.err = t'.err ∧ t.vok = t'.vok

/-! ### Permutation engine, S-boxes, key schedule -/

/-- 40_permutation_sbox.md R51: bit i of the result, from the most significant, is the input bit at position T[i]. -/
def Obligations.PermutePlacesEachTableBit : Prop :=
  ∀ (inLen : Nat) (v : BitVec inLen) (T : List Nat), (∀ p ∈ T, 1 ≤ p ∧ p ≤ inLen) →
    ∀ i, i < T.length → (permute T.length v T).getMsbD i = v.getMsbD (T.getD i 0 - 1)

/-- 40_permutation_sbox.md R54: FP and IP are inverse, in both orders, for every 64-bit value. -/
def Obligations.FinalPermutationInvertsInitial : Prop :=
  ∀ v : Block, permute 64 (permute 64 v tableIP) tableFP = v ∧ permute 64 (permute 64 v tableFP) tableIP = v

/-- 40_permutation_sbox.md R68: nibble k of the result, from the most significant, is box k applied to group k. -/
def Obligations.SboxLayerUsesBoxKForGroupK : Prop :=
  ∀ (w : BitVec 48) (k : Nat), 1 ≤ k → k ≤ 8 →
    (sboxLayer w).extractLsb' (32 - 4 * k) 4 = sbox k (w.extractLsb' (48 - 6 * k) 6)

/-- 41_key_schedule.md R70: Rotl28 moves the bit at position j + s to position j, those that leave at the top re-entering
at the bottom, and the sixteen rotations of the schedule (R71) bring a half back to its start. -/
def Obligations.RotationsReturnEachHalf : Prop :=
  (∀ (v : KeyHalf) (s j : Nat), 1 ≤ s → s ≤ 2 → j < 28 → (rotl28 v s).getMsbD j = v.getMsbD ((j + s) % 28)) ∧
  (∀ v : KeyHalf, shifts.foldl rotl28 v = v)

/-- 41_key_schedule.md R72: which key bit each bit of each subkey is: PC2's position, moved by the total rotation up to
round i within its 28-bit half, looked up in PC1. -/
def Obligations.SubkeyBitsComeFromTheKey : Prop :=
  ∀ (K : Block) (i : Fin 16) (p : Nat), p < 48 →
    let q := tablePC2.getD p 0 - 1
    let total := (shifts.take (i.val + 1)).sum
    let moved := if q < 28 then (q + total) % 28 else (q - 28 + total) % 28 + 28
    (keySchedule K)[i].getMsbD p = K.getMsbD (tablePC1.getD moved 0 - 1)

/-- 41_key_schedule.md R73: keys that differ only in the least significant bit of each byte have the same subkeys. -/
def Obligations.KeyScheduleIgnoresParity : Prop :=
  ∀ K K' : Block, K &&& 0xFEFEFEFEFEFEFEFE = K' &&& 0xFEFEFEFEFEFEFEFE → keySchedule K = keySchedule K'

/-- 41_key_schedule.md R74: KEYEXP answers in every state; RK reads as KeySchedule(BE(KEY)), RKVALID is 1, the status is that
of a success, everything else is as before. -/
def Obligations.KeyexpLoadsTheSchedule : Prop :=
  ∀ s : State, ∃ t, exec .keyexp s = .next t ∧
    t = { s with rk := keySchedule s.key, rkvalid := true, errf := false, err := .none, vok := false } ∧
    t.hostRead 0x0001 = 0x02 ∧ t.hostRead 0x0002 = 0x00 ∧
    (∀ (i : Fin 16) (j : Nat), j < 6 → t.hostRead (rkAddr i j) = (toBE ((keySchedule s.key)[i]).toNat 6).getD j 0)

/-! ### The block cipher -/

/-- 42_block_cipher.md R78: decryption and encryption are inverse, in both orders, for any sixteen subkeys; so both are
bijections on 64-bit values. -/
def Obligations.DecryptionInvertsEncryption : Prop :=
  ∀ k : RoundKeys,
    (∀ B : Block, decryptBlock (encryptBlock B k) k = B) ∧ (∀ B : Block, encryptBlock (decryptBlock B k) k = B) ∧
    Function.Bijective (fun B => encryptBlock B k) ∧ Function.Bijective (fun B => decryptBlock B k)

/-- 95_test_vectors.md V5 row f, derived there from R75 and R76: `Enc(~B, ~K) = ~Enc(B, K)`. -/
def Obligations.EncryptionCommutesWithComplement : Prop :=
  ∀ K B : Block, encryptBlock (~~~B) (keySchedule (~~~K)) = ~~~(encryptBlock B (keySchedule K))

/-- 42_block_cipher.md R79: BLKENC writes ToBE(EncryptBlock(BE(BLKIN), RK), 8) to BLKOUT, or fails with E_NOKEY and keeps
everything. -/
def Obligations.BlkencEncryptsBlkin : Prop :=
  ∀ s : State,
    (s.rkvalid = true → ∃ t, exec .blkenc s = .next t ∧
      t = { s with blkout := t.blkout, errf := false, err := .none, vok := false } ∧
      ∀ j, j < 8 → t.hostRead (Reg.blkout.addr j) = (toBE (encryptBlock s.blkin s.rk).toNat 8).getD j 0) ∧
    (s.rkvalid = false → exec .blkenc s = .next { s with errf := true, err := .nokey, vok := false })

/-- 42_block_cipher.md R80: BLKDEC writes ToBE(DecryptBlock(BE(BLKIN), RK), 8) to BLKOUT, or fails with E_NOKEY. -/
def Obligations.BlkdecDecryptsBlkin : Prop :=
  ∀ s : State,
    (s.rkvalid = true → ∃ t, exec .blkdec s = .next t ∧
      t = { s with blkout := t.blkout, errf := false, err := .none, vok := false } ∧
      ∀ j, j < 8 → t.hostRead (Reg.blkout.addr j) = (toBE (decryptBlock s.blkin s.rk).toNat 8).getD j 0) ∧
    (s.rkvalid = false → exec .blkdec s = .next { s with errf := true, err := .nokey, vok := false })

/-- 42_block_cipher.md R78 to R80: BLKDEC of BLKENC's output, copied to BLKIN by the host, gives back the block, and the
other way round. -/
def Obligations.BlockCommandsUndoEachOther : Prop :=
  ∀ s : State, s.rkvalid = true →
    (∃ t u, exec .blkenc s = .next t ∧ exec .blkdec { t with blkin := t.blkout } = .next u ∧ u.blkout = s.blkin) ∧
    (∃ t u, exec .blkdec s = .next t ∧ exec .blkenc { t with blkin := t.blkout } = .next u ∧ u.blkout = s.blkin)

/-! ### The mode functions -/

/-- 43_chaining.md R83: EcbEnc's length, and its block j: E8 of block j of the input padded with zero bytes. -/
def Obligations.EcbEncWorksBlockwise : Prop :=
  ∀ (k : RoundKeys) (p : Bytes), 1 ≤ p.length →
    let nb := (p.length + 7) / 8
    (ecbEnc k p).length = 8 * nb ∧
    ∀ j, j < nb → blk (ecbEnc k p) j = e8 k (blk (p ++ zeros (8 * nb - p.length)) j)

/-- 43_chaining.md R84: EcbDec's block j is D8 of block j, and no padding is removed. -/
def Obligations.EcbDecKeepsThePadding : Prop :=
  (∀ (k : RoundKeys) (c : Bytes), 1 ≤ c.length → c.length % 8 = 0 →
    (ecbDec k c).length = c.length ∧ ∀ j, j < c.length / 8 → blk (ecbDec k c) j = d8 k (blk c j)) ∧
  (∀ (k : RoundKeys) (p : Bytes), 1 ≤ p.length →
    ecbDec k (ecbEnc k p) = p ++ zeros (8 * ((p.length + 7) / 8) - p.length))

/-- 43_chaining.md R85: block j of CbcEnc is E8 of plaintext block j xor the ciphertext block before it, or the IV. -/
def Obligations.CbcEncChainsOnCiphertext : Prop :=
  ∀ (k : RoundKeys) (iv p : Bytes), iv.length = 8 → p.length % 8 = 0 →
    (cbcEnc k iv p).length = p.length ∧
    ∀ j, j < p.length / 8 →
      blk (cbcEnc k iv p) j = e8 k (xorBytes (blk p j) (if j = 0 then iv else blk (cbcEnc k iv p) (j - 1)))

/-- 43_chaining.md R86: block j of CbcDec is D8 of ciphertext block j xor the ciphertext block before it in the input, or
the IV. -/
def Obligations.CbcDecChainsOnInput : Prop :=
  ∀ (k : RoundKeys) (iv c : Bytes), iv.length = 8 → c.length % 8 = 0 →
    (cbcDec k iv c).length = c.length ∧
    ∀ j, j < c.length / 8 →
      blk (cbcDec k iv c) j = xorBytes (d8 k (blk c j)) (if j = 0 then iv else blk c (j - 1))

/-- 43_chaining.md R87: CtsEnc is CbcEnc on whole blocks; otherwise its first m - 2 blocks are CbcEnc's, its last whole
block is Cn and its last r bytes are the start of C', with C' and Cn from the rule's own equations. -/
def Obligations.CtsEncStealsCiphertext : Prop :=
  ∀ (k : RoundKeys) (iv p : Bytes), iv.length = 8 → 8 ≤ p.length →
    (p.length % 8 = 0 → ctsEnc k iv p = cbcEnc k iv p) ∧
    (p.length % 8 ≠ 0 →
      let r := p.length % 8
      let m := (p.length + 7) / 8
      let out := ctsEnc k iv p
      let cp := e8 k (xorBytes (blk p (m - 2)) (if m = 2 then iv else blk out (m - 3)))
      out.length = p.length ∧
      slice out 0 (8 * (m - 2)) = cbcEnc k iv (slice p 0 (8 * (m - 2))) ∧
      blk out (m - 2) = e8 k (xorBytes (slice p (8 * (m - 1)) p.length ++ zeros (8 - r)) cp) ∧
      slice out (8 * (m - 1)) p.length = slice cp 0 r)

/-- 43_chaining.md R88: CtsDec is CbcDec on whole blocks; otherwise C' is the stored short block with the tail of Dn, the
second-to-last block is D8 of that xor the ciphertext block before it (or the IV), and the last r bytes are Dn xor T. -/
def Obligations.CtsDecRebuildsTheStolenBlock : Prop :=
  ∀ (k : RoundKeys) (iv c : Bytes), iv.length = 8 → 8 ≤ c.length →
    (c.length % 8 = 0 → ctsDec k iv c = cbcDec k iv c) ∧
    (c.length % 8 ≠ 0 →
      let r := c.length % 8
      let m := (c.length + 7) / 8
      let out := ctsDec k iv c
      let dn := d8 k (blk c (m - 2))
      let t := slice c (8 * (m - 1)) c.length
      out.length = c.length ∧
      slice out 0 (8 * (m - 2)) = cbcDec k iv (slice c 0 (8 * (m - 2))) ∧
      blk out (m - 2) = xorBytes (d8 k (t ++ slice dn r 8)) (if m = 2 then iv else blk c (m - 3)) ∧
      slice out (8 * (m - 1)) c.length = xorBytes (slice dn 0 r) t)

/-- 43_chaining.md R95 (a): chained-mode decryption and encryption are inverse, in both orders, on whole blocks. -/
def Obligations.CbcModesAreInverse : Prop :=
  ∀ (k : RoundKeys) (iv p : Bytes), iv.length = 8 → p.length % 8 = 0 →
    cbcDec k iv (cbcEnc k iv p) = p ∧ cbcEnc k iv (cbcDec k iv p) = p

/-- 43_chaining.md R95 (b): the truncated mode's two directions are inverse, in both orders, at every length of 8 or more. -/
def Obligations.CtsModesAreInverse : Prop :=
  ∀ (k : RoundKeys) (iv p : Bytes), iv.length = 8 → 8 ≤ p.length →
    ctsDec k iv (ctsEnc k iv p) = p ∧ ctsEnc k iv (ctsDec k iv p) = p

/-! ### The CMC commands -/

/-- 43_chaining.md R89: ECBENC, with the checks of R82: E_NOKEY, E_LEN (LEN = 0), E_BOUNDS and E_OVERLAP in that order, on
n_out = 8·ceil(n_in/8); else the output is written. -/
def Obligations.EcbencWritesThePaddedBlocks : Prop :=
  ∀ s : State, ∃ t, exec .ecbenc s = .next t ∧
    CmcOutcome s (s.len.toNat = 0) (8 * ((s.len.toNat + 7) / 8)) (ecbEnc s.rk s.cmcInput) t

/-- 43_chaining.md R90: ECBDEC; E_LEN when LEN is 0 or not a multiple of 8. -/
def Obligations.EcbdecWritesTheDecryptedBlocks : Prop :=
  ∀ s : State, ∃ t, exec .ecbdec s = .next t ∧
    CmcOutcome s (s.len.toNat = 0 ∨ s.len.toNat % 8 ≠ 0) s.len.toNat (ecbDec s.rk s.cmcInput) t

/-- 43_chaining.md R91: CBCENC; E_LEN when LEN is 0 or not a multiple of 8; IV is not changed. -/
def Obligations.CbcencWritesTheChainedBlocks : Prop :=
  ∀ s : State, ∃ t, exec .cbcenc s = .next t ∧
    CmcOutcome s (s.len.toNat = 0 ∨ s.len.toNat % 8 ≠ 0) s.len.toNat
      (cbcEnc s.rk (toBE s.iv.toNat 8) s.cmcInput) t

/-- 43_chaining.md R92: CBCDEC. -/
def Obligations.CbcdecWritesTheUnchainedBlocks : Prop :=
  ∀ s : State, ∃ t, exec .cbcdec s = .next t ∧
    CmcOutcome s (s.len.toNat = 0 ∨ s.len.toNat % 8 ≠ 0) s.len.toNat
      (cbcDec s.rk (toBE s.iv.toNat 8) s.cmcInput) t

/-- 43_chaining.md R93: CTSENC; E_LEN when LEN < 8, "which includes 0". -/
def Obligations.CtsencWritesAsManyBytes : Prop :=
  ∀ s : State, ∃ t, exec .ctsenc s = .next t ∧
    CmcOutcome s (s.len.toNat < 8) s.len.toNat (ctsEnc s.rk (toBE s.iv.toNat 8) s.cmcInput) t

/-- 43_chaining.md R94: CTSDEC. -/
def Obligations.CtsdecWritesAsManyBytes : Prop :=
  ∀ s : State, ∃ t, exec .ctsdec s = .next t ∧
    CmcOutcome s (s.len.toNat < 8) s.len.toNat (ctsDec s.rk (toBE s.iv.toNat 8) s.cmcInput) t

/-- 43_chaining.md R93, 90_conflicts.md C2: on a length that is a multiple of 8 the CTS commands are the CBC commands. -/
def Obligations.CtsOnWholeBlocksIsCbc : Prop :=
  ∀ s : State, s.len.toNat % 8 = 0 → exec .ctsenc s = exec .cbcenc s ∧ exec .ctsdec s = exec .cbcdec s

/-- 43_chaining.md R95 ("The laws hold on the device"): in place, CTSENC then CTSDEC brings every byte of BUF back, for
every LEN of 8 or more that fits, and changes nothing but OUTLEN and the status. -/
def Obligations.CtsCommandsRoundTripInPlace : Prop :=
  ∀ s : State, s.rkvalid = true → 8 ≤ s.len.toNat → s.src = s.dst → s.src.toNat + s.len.toNat ≤ s.cfg.bufBytes →
    ∃ t u, exec .ctsenc s = .next t ∧ exec .ctsdec t = .next u ∧ (∀ a, u.bufByte a = s.bufByte a) ∧
      u = { s with buf := u.buf, outlen := s.len, errf := false, err := .none, vok := false }

/-! ### The modular exponentiation engine -/

/-- 44_modexp.md R97: for every n ≥ 1 the result is the r with 0 ≤ r < n and r ≡ b^x (mod n). -/
def Obligations.ModExpIsThePowerModulo : Prop :=
  ∀ b x n : Nat, 1 ≤ n → modExp b x n < n ∧ modExp b x n ≡ b ^ x [MOD n]

/-- 44_modexp.md R99: PKENC fails with E_RANGE unless X is below N; else Y is X^E mod N on MEE_BYTES bytes and nothing else
but the status changes. -/
def Obligations.PkencComputesThePower : Prop :=
  ∀ s : State, s.MeeWidths →
    (BE s.n = 0 ∨ BE s.n ≤ BE s.x → exec .pkenc s = .next { s with errf := true, err := .range, vok := false }) ∧
    (BE s.n ≠ 0 → BE s.x < BE s.n → ∃ t, exec .pkenc s = .next t ∧
      t = { s with y := t.y, errf := false, err := .none, vok := false } ∧
      t.y.length = s.cfg.meeBytes ∧ BE t.y = BE s.x ^ BE s.e % BE s.n)

/-- 44_modexp.md R100 and R101: PKDEC and PKSIGN compute X^D mod N, with the same failure. -/
def Obligations.PkdecAndPksignUseD : Prop :=
  ∀ (s : State) (i : Instr), s.MeeWidths → i = .pkdec ∨ i = .pksign →
    (BE s.n = 0 ∨ BE s.n ≤ BE s.x → exec i s = .next { s with errf := true, err := .range, vok := false }) ∧
    (BE s.n ≠ 0 → BE s.x < BE s.n → ∃ t, exec i s = .next t ∧
      t = { s with y := t.y, errf := false, err := .none, vok := false } ∧
      t.y.length = s.cfg.meeBytes ∧ BE t.y = BE s.x ^ BE s.d % BE s.n)

/-- 44_modexp.md R102, 60_exceptions.md R115: PKVFY fails only for N = 0; else it writes h' = X^E mod N to Y, with no check
of X, and VOK is 1 exactly when h' = BE(H); a mismatch is a success. -/
def Obligations.PkvfyComparesWithH : Prop :=
  ∀ s : State, s.MeeWidths →
    (BE s.n = 0 → exec .pkvfy s = .next { s with errf := true, err := .range, vok := false }) ∧
    (BE s.n ≠ 0 → ∃ t, exec .pkvfy s = .next t ∧
      t = { s with y := t.y, errf := false, err := .none, vok := t.vok } ∧
      t.y.length = s.cfg.meeBytes ∧ BE t.y = BE s.x ^ BE s.e % BE s.n ∧
      (t.vok = true ↔ BE s.x ^ BE s.e % BE s.n = BE s.h))

/-- 44_modexp.md R104: no padding: PKENC is multiplicative in its operand. -/
def Obligations.ModExpIsMultiplicative : Prop :=
  ∀ m₁ m₂ e n : Nat, 1 ≤ n → modExp m₁ e n * modExp m₂ e n % n = modExp (m₁ * m₂ % n) e n

/-- 44_modexp.md R103: with a key pair that meets the source's invariants, PKDEC of PKENC's result gives the message back,
PKVFY accepts PKSIGN's result for its digest and no other value of H. -/
def Obligations.PublicKeyRoundTrips : Prop :=
  ∀ (s : State) (p q : Nat), s.MeeWidths → p.Prime → q.Prime → p ≠ q → BE s.n = p * q →
    1 < BE s.e → BE s.e < (p - 1) * (q - 1) → (BE s.e).gcd ((p - 1) * (q - 1)) = 1 →
    BE s.d < (p - 1) * (q - 1) → BE s.e * BE s.d % ((p - 1) * (q - 1)) = 1 → BE s.x < BE s.n →
    (∃ t u, exec .pkenc s = .next t ∧ exec .pkdec { t with x := t.y } = .next u ∧ BE u.y = BE s.x) ∧
    (∃ t, exec .pksign s = .next t ∧ t.errf = false ∧
      ∀ h : Bytes, ∃ u, exec .pkvfy { t with x := t.y, h := h } = .next u ∧ u.errf = false ∧
        (u.vok = true ↔ BE h = BE s.x))
end

