-- ==== Sys2Proof/Laws/Bytes.lean ====
section
/-! SUPPORT. The conversions BE and ToBE are inverse on their domains (spec/00_scope.md R9), and a register reads as the
byte string last put there. -/

namespace Sys2Proof.Machine

@[simp] theorem length_toBE (v k : Nat) : (toBE v k).length = k := by
  induction k with
  | zero => rfl
  | succ k ih => simp [toBE, ih]

@[simp] theorem length_zeros (k : Nat) : (zeros k).length = k := List.length_replicate

theorem BE_foldl (acc : Nat) (s : Bytes) :
    s.foldl (fun a b => 256 * a + b.toNat) acc = acc * 256 ^ s.length + BE s := by
  induction s generalizing acc with
  | nil => simp [BE]
  | cons b s ih =>
    have h0 : BE (b :: s) = b.toNat * 256 ^ s.length + BE s := by
      simpa [BE] using ih b.toNat
    rw [h0, List.foldl_cons, ih, List.length_cons, pow_succ]
    ring

@[simp] theorem BE_nil : BE [] = 0 := rfl

theorem BE_cons (b : Byte) (s : Bytes) : BE (b :: s) = b.toNat * 256 ^ s.length + BE s := by
  simpa [BE] using BE_foldl b.toNat s

theorem BE_lt (s : Bytes) : BE s < 256 ^ s.length := by
  induction s with
  | nil => simp
  | cons b s ih =>
    have hb := b.isLt
    rw [BE_cons, List.length_cons, pow_succ]
    nlinarith

@[simp] theorem BE_zeros (k : Nat) : BE (zeros k) = 0 := by
  induction k with
  | zero => rfl
  | succ k ih => rw [show zeros (k + 1) = 0 :: zeros k from rfl, BE_cons, ih]; simp

theorem BE_toBE_mod (v k : Nat) : BE (toBE v k) = v % 256 ^ k := by
  induction k with
  | zero => simp [toBE, Nat.mod_one]
  | succ k ih =>
    rw [toBE, BE_cons, ih, length_toBE, BitVec.toNat_ofNat, Nat.shiftRight_eq_div_pow]
    rw [show (2 : Nat) ^ (8 * k) = 256 ^ k by rw [pow_mul]; norm_num]
    rw [show (2 : Nat) ^ 8 = 256 by norm_num, pow_succ, Nat.mod_mul]
    ring

/-- `BE(ToBE(v, k)) = v`, for v below 256^k (00_scope.md R9). -/
theorem BE_toBE {v k : Nat} (h : v < 256 ^ k) : BE (toBE v k) = v := by
  rw [BE_toBE_mod, Nat.mod_eq_of_lt h]

theorem toBE_add_mul (q v k : Nat) : toBE (q * 256 ^ k + v) k = toBE v k := by
  induction k generalizing q v with
  | zero => rfl
  | succ k ih =>
    have hp : 256 ^ (k + 1) = 256 * 256 ^ k := by rw [pow_succ, Nat.mul_comm]
    have hs : (2 : Nat) ^ (8 * k) = 256 ^ k := by rw [pow_mul]; norm_num
    have hpos : 0 < 256 ^ k := by positivity
    rw [toBE, toBE]
    congr 1
    · apply BitVec.eq_of_toNat_eq
      rw [BitVec.toNat_ofNat, BitVec.toNat_ofNat, Nat.shiftRight_eq_div_pow, Nat.shiftRight_eq_div_pow, hs]
      have : q * 256 ^ (k + 1) + v = v + 256 ^ k * (q * 256) := by rw [hp]; ring
      rw [this, Nat.add_mul_div_left _ _ hpos]
      simp [Nat.add_mod]
    · have : q * 256 ^ (k + 1) + v = (q * 256) * 256 ^ k + v := by rw [hp]; ring
      rw [this, ih]

/-- `ToBE(BE(s), len(s)) = s` (00_scope.md R9). -/
theorem toBE_BE (s : Bytes) : toBE (BE s) s.length = s := by
  induction s with
  | nil => rfl
  | cons b s ih =>
    have hlt := BE_lt s
    have hs : (2 : Nat) ^ (8 * s.length) = 256 ^ s.length := by rw [pow_mul]; norm_num
    rw [List.length_cons, toBE, BE_cons, toBE_add_mul, ih]
    congr 1
    apply BitVec.eq_of_toNat_eq
    rw [BitVec.toNat_ofNat, Nat.shiftRight_eq_div_pow, hs, Nat.add_comm,
      Nat.add_mul_div_right _ _ (by positivity), Nat.div_eq_of_lt hlt, Nat.zero_add]
    exact Nat.mod_eq_of_lt b.isLt

@[simp] theorem length_bytesOf {w : Nat} (v : BitVec w) : (bytesOf v).length = w / 8 := length_toBE _ _

/-- A register's byte string put back gives the register. -/
theorem ofBytes_bytesOf {w : Nat} (v : BitVec w) (h : w % 8 = 0) : ofBytes w (bytesOf v) = v := by
  have hw : 256 ^ (w / 8) = 2 ^ w := by
    rw [show (256 : Nat) = 2 ^ 8 by norm_num, ← pow_mul, Nat.mul_div_cancel' (Nat.dvd_of_mod_eq_zero h)]
  rw [ofBytes, bytesOf, BE_toBE (by rw [hw]; exact v.isLt), BitVec.ofNat_toNat, BitVec.setWidth_eq]

/-- The byte string put into a register is the one read back, when it has the register's length. -/
theorem bytesOf_ofBytes {w : Nat} (s : Bytes) (h : 8 * s.length = w) : bytesOf (ofBytes w s) = s := by
  subst h
  have hlt : BE s < 2 ^ (8 * s.length) := by
    rw [pow_mul]
    exact BE_lt s
  rw [bytesOf, ofBytes, BitVec.toNat_ofNat, Nat.mod_eq_of_lt hlt, Nat.mul_div_cancel_left _ (by decide), toBE_BE]

/-- A register reads as the byte string put there. -/
theorem State.regBytes_putReg_same (s : State) (r : Reg) (v : Bytes) (h : v.length = r.width s.cfg) :
    (s.putReg r v).regBytes r = v := by
  cases r <;> first | rfl | exact bytesOf_ofBytes v (by simp [h, Reg.width])

/-- Putting one register leaves the others as they were. -/
theorem State.regBytes_putReg_other (s : State) {r q : Reg} (v : Bytes) (h : q ≠ r) :
    (s.putReg r v).regBytes q = s.regBytes q := by
  cases r <;> cases q <;> first | rfl | exact absurd rfl h

end Sys2Proof.Machine
end

