-- ==== Sys2Proof/Laws/State.lean ====
section
/-! SUPPORT. What each named update of the state leaves in each field, so that no later proof unfolds a record update. -/

namespace Sys2Proof.Machine

/-! ### raise -/

@[simp] theorem State.raise_cfg (s : State) (c : ErrCode) : (s.raise c).cfg = s.cfg := rfl
@[simp] theorem State.raise_errf (s : State) (c : ErrCode) : (s.raise c).errf = true := rfl
@[simp] theorem State.raise_rkvalid (s : State) (c : ErrCode) : (s.raise c).rkvalid = s.rkvalid := rfl
@[simp] theorem State.raise_vok (s : State) (c : ErrCode) : (s.raise c).vok = false := rfl
@[simp] theorem State.raise_err (s : State) (c : ErrCode) : (s.raise c).err = c := rfl
@[simp] theorem State.raise_src (s : State) (c : ErrCode) : (s.raise c).src = s.src := rfl
@[simp] theorem State.raise_dst (s : State) (c : ErrCode) : (s.raise c).dst = s.dst := rfl
@[simp] theorem State.raise_len (s : State) (c : ErrCode) : (s.raise c).len = s.len := rfl
@[simp] theorem State.raise_outlen (s : State) (c : ErrCode) : (s.raise c).outlen = s.outlen := rfl
@[simp] theorem State.raise_key (s : State) (c : ErrCode) : (s.raise c).key = s.key := rfl
@[simp] theorem State.raise_iv (s : State) (c : ErrCode) : (s.raise c).iv = s.iv := rfl
@[simp] theorem State.raise_blkin (s : State) (c : ErrCode) : (s.raise c).blkin = s.blkin := rfl
@[simp] theorem State.raise_blkout (s : State) (c : ErrCode) : (s.raise c).blkout = s.blkout := rfl
@[simp] theorem State.raise_rk (s : State) (c : ErrCode) : (s.raise c).rk = s.rk := rfl
@[simp] theorem State.raise_n (s : State) (c : ErrCode) : (s.raise c).n = s.n := rfl
@[simp] theorem State.raise_e (s : State) (c : ErrCode) : (s.raise c).e = s.e := rfl
@[simp] theorem State.raise_d (s : State) (c : ErrCode) : (s.raise c).d = s.d := rfl
@[simp] theorem State.raise_x (s : State) (c : ErrCode) : (s.raise c).x = s.x := rfl
@[simp] theorem State.raise_y (s : State) (c : ErrCode) : (s.raise c).y = s.y := rfl
@[simp] theorem State.raise_h (s : State) (c : ErrCode) : (s.raise c).h = s.h := rfl
@[simp] theorem State.raise_buf (s : State) (c : ErrCode) : (s.raise c).buf = s.buf := rfl
@[simp] theorem State.raise_powerOns (s : State) (c : ErrCode) : (s.raise c).powerOns = s.powerOns := rfl
@[simp] theorem State.raise_pending (s : State) (c : ErrCode) : (s.raise c).pending = s.pending := rfl
@[simp] theorem State.raise_replies (s : State) (c : ErrCode) : (s.raise c).replies = s.replies := rfl

/-! ### succeed -/

@[simp] theorem State.succeed_cfg (s : State) : (s.succeed).cfg = s.cfg := rfl
@[simp] theorem State.succeed_errf (s : State) : (s.succeed).errf = false := rfl
@[simp] theorem State.succeed_rkvalid (s : State) : (s.succeed).rkvalid = s.rkvalid := rfl
@[simp] theorem State.succeed_vok (s : State) : (s.succeed).vok = false := rfl
@[simp] theorem State.succeed_err (s : State) : (s.succeed).err = .none := rfl
@[simp] theorem State.succeed_src (s : State) : (s.succeed).src = s.src := rfl
@[simp] theorem State.succeed_dst (s : State) : (s.succeed).dst = s.dst := rfl
@[simp] theorem State.succeed_len (s : State) : (s.succeed).len = s.len := rfl
@[simp] theorem State.succeed_outlen (s : State) : (s.succeed).outlen = s.outlen := rfl
@[simp] theorem State.succeed_key (s : State) : (s.succeed).key = s.key := rfl
@[simp] theorem State.succeed_iv (s : State) : (s.succeed).iv = s.iv := rfl
@[simp] theorem State.succeed_blkin (s : State) : (s.succeed).blkin = s.blkin := rfl
@[simp] theorem State.succeed_blkout (s : State) : (s.succeed).blkout = s.blkout := rfl
@[simp] theorem State.succeed_rk (s : State) : (s.succeed).rk = s.rk := rfl
@[simp] theorem State.succeed_n (s : State) : (s.succeed).n = s.n := rfl
@[simp] theorem State.succeed_e (s : State) : (s.succeed).e = s.e := rfl
@[simp] theorem State.succeed_d (s : State) : (s.succeed).d = s.d := rfl
@[simp] theorem State.succeed_x (s : State) : (s.succeed).x = s.x := rfl
@[simp] theorem State.succeed_y (s : State) : (s.succeed).y = s.y := rfl
@[simp] theorem State.succeed_h (s : State) : (s.succeed).h = s.h := rfl
@[simp] theorem State.succeed_buf (s : State) : (s.succeed).buf = s.buf := rfl
@[simp] theorem State.succeed_powerOns (s : State) : (s.succeed).powerOns = s.powerOns := rfl
@[simp] theorem State.succeed_pending (s : State) : (s.succeed).pending = s.pending := rfl
@[simp] theorem State.succeed_replies (s : State) : (s.succeed).replies = s.replies := rfl

/-! ### dropRoundKeys -/

@[simp] theorem State.dropRoundKeys_cfg (s : State) : (s.dropRoundKeys).cfg = s.cfg := rfl
@[simp] theorem State.dropRoundKeys_errf (s : State) : (s.dropRoundKeys).errf = s.errf := rfl
@[simp] theorem State.dropRoundKeys_rkvalid (s : State) : (s.dropRoundKeys).rkvalid = false := rfl
@[simp] theorem State.dropRoundKeys_vok (s : State) : (s.dropRoundKeys).vok = s.vok := rfl
@[simp] theorem State.dropRoundKeys_err (s : State) : (s.dropRoundKeys).err = s.err := rfl
@[simp] theorem State.dropRoundKeys_src (s : State) : (s.dropRoundKeys).src = s.src := rfl
@[simp] theorem State.dropRoundKeys_dst (s : State) : (s.dropRoundKeys).dst = s.dst := rfl
@[simp] theorem State.dropRoundKeys_len (s : State) : (s.dropRoundKeys).len = s.len := rfl
@[simp] theorem State.dropRoundKeys_outlen (s : State) : (s.dropRoundKeys).outlen = s.outlen := rfl
@[simp] theorem State.dropRoundKeys_key (s : State) : (s.dropRoundKeys).key = s.key := rfl
@[simp] theorem State.dropRoundKeys_iv (s : State) : (s.dropRoundKeys).iv = s.iv := rfl
@[simp] theorem State.dropRoundKeys_blkin (s : State) : (s.dropRoundKeys).blkin = s.blkin := rfl
@[simp] theorem State.dropRoundKeys_blkout (s : State) : (s.dropRoundKeys).blkout = s.blkout := rfl
@[simp] theorem State.dropRoundKeys_rk (s : State) : (s.dropRoundKeys).rk = Vector.replicate 16 0 := rfl
@[simp] theorem State.dropRoundKeys_n (s : State) : (s.dropRoundKeys).n = s.n := rfl
@[simp] theorem State.dropRoundKeys_e (s : State) : (s.dropRoundKeys).e = s.e := rfl
@[simp] theorem State.dropRoundKeys_d (s : State) : (s.dropRoundKeys).d = s.d := rfl
@[simp] theorem State.dropRoundKeys_x (s : State) : (s.dropRoundKeys).x = s.x := rfl
@[simp] theorem State.dropRoundKeys_y (s : State) : (s.dropRoundKeys).y = s.y := rfl
@[simp] theorem State.dropRoundKeys_h (s : State) : (s.dropRoundKeys).h = s.h := rfl
@[simp] theorem State.dropRoundKeys_buf (s : State) : (s.dropRoundKeys).buf = s.buf := rfl
@[simp] theorem State.dropRoundKeys_powerOns (s : State) : (s.dropRoundKeys).powerOns = s.powerOns := rfl
@[simp] theorem State.dropRoundKeys_pending (s : State) : (s.dropRoundKeys).pending = s.pending := rfl
@[simp] theorem State.dropRoundKeys_replies (s : State) : (s.dropRoundKeys).replies = s.replies := rfl

/-! ### memWrite -/

@[simp] theorem State.memWrite_cfg (s : State) (off : Nat) (out : Bytes) : (s.memWrite off out).cfg = s.cfg := rfl
@[simp] theorem State.memWrite_errf (s : State) (off : Nat) (out : Bytes) : (s.memWrite off out).errf = s.errf := rfl
@[simp] theorem State.memWrite_rkvalid (s : State) (off : Nat) (out : Bytes) : (s.memWrite off out).rkvalid = s.rkvalid := rfl
@[simp] theorem State.memWrite_vok (s : State) (off : Nat) (out : Bytes) : (s.memWrite off out).vok = s.vok := rfl
@[simp] theorem State.memWrite_err (s : State) (off : Nat) (out : Bytes) : (s.memWrite off out).err = s.err := rfl
@[simp] theorem State.memWrite_src (s : State) (off : Nat) (out : Bytes) : (s.memWrite off out).src = s.src := rfl
@[simp] theorem State.memWrite_dst (s : State) (off : Nat) (out : Bytes) : (s.memWrite off out).dst = s.dst := rfl
@[simp] theorem State.memWrite_len (s : State) (off : Nat) (out : Bytes) : (s.memWrite off out).len = s.len := rfl
@[simp] theorem State.memWrite_outlen (s : State) (off : Nat) (out : Bytes) : (s.memWrite off out).outlen = s.outlen := rfl
@[simp] theorem State.memWrite_key (s : State) (off : Nat) (out : Bytes) : (s.memWrite off out).key = s.key := rfl
@[simp] theorem State.memWrite_iv (s : State) (off : Nat) (out : Bytes) : (s.memWrite off out).iv = s.iv := rfl
@[simp] theorem State.memWrite_blkin (s : State) (off : Nat) (out : Bytes) : (s.memWrite off out).blkin = s.blkin := rfl
@[simp] theorem State.memWrite_blkout (s : State) (off : Nat) (out : Bytes) : (s.memWrite off out).blkout = s.blkout := rfl
@[simp] theorem State.memWrite_rk (s : State) (off : Nat) (out : Bytes) : (s.memWrite off out).rk = s.rk := rfl
@[simp] theorem State.memWrite_n (s : State) (off : Nat) (out : Bytes) : (s.memWrite off out).n = s.n := rfl
@[simp] theorem State.memWrite_e (s : State) (off : Nat) (out : Bytes) : (s.memWrite off out).e = s.e := rfl
@[simp] theorem State.memWrite_d (s : State) (off : Nat) (out : Bytes) : (s.memWrite off out).d = s.d := rfl
@[simp] theorem State.memWrite_x (s : State) (off : Nat) (out : Bytes) : (s.memWrite off out).x = s.x := rfl
@[simp] theorem State.memWrite_y (s : State) (off : Nat) (out : Bytes) : (s.memWrite off out).y = s.y := rfl
@[simp] theorem State.memWrite_h (s : State) (off : Nat) (out : Bytes) : (s.memWrite off out).h = s.h := rfl
@[simp] theorem State.memWrite_buf (s : State) (off : Nat) (out : Bytes) : (s.memWrite off out).buf = Memory.writeBytes s.buf off out := rfl
@[simp] theorem State.memWrite_powerOns (s : State) (off : Nat) (out : Bytes) : (s.memWrite off out).powerOns = s.powerOns := rfl
@[simp] theorem State.memWrite_pending (s : State) (off : Nat) (out : Bytes) : (s.memWrite off out).pending = s.pending := rfl
@[simp] theorem State.memWrite_replies (s : State) (off : Nat) (out : Bytes) : (s.memWrite off out).replies = s.replies := rfl

/-! ### putY -/

@[simp] theorem State.putY_cfg (s : State) (r : Nat) : (s.putY r).cfg = s.cfg := rfl
@[simp] theorem State.putY_errf (s : State) (r : Nat) : (s.putY r).errf = s.errf := rfl
@[simp] theorem State.putY_rkvalid (s : State) (r : Nat) : (s.putY r).rkvalid = s.rkvalid := rfl
@[simp] theorem State.putY_vok (s : State) (r : Nat) : (s.putY r).vok = s.vok := rfl
@[simp] theorem State.putY_err (s : State) (r : Nat) : (s.putY r).err = s.err := rfl
@[simp] theorem State.putY_src (s : State) (r : Nat) : (s.putY r).src = s.src := rfl
@[simp] theorem State.putY_dst (s : State) (r : Nat) : (s.putY r).dst = s.dst := rfl
@[simp] theorem State.putY_len (s : State) (r : Nat) : (s.putY r).len = s.len := rfl
@[simp] theorem State.putY_outlen (s : State) (r : Nat) : (s.putY r).outlen = s.outlen := rfl
@[simp] theorem State.putY_key (s : State) (r : Nat) : (s.putY r).key = s.key := rfl
@[simp] theorem State.putY_iv (s : State) (r : Nat) : (s.putY r).iv = s.iv := rfl
@[simp] theorem State.putY_blkin (s : State) (r : Nat) : (s.putY r).blkin = s.blkin := rfl
@[simp] theorem State.putY_blkout (s : State) (r : Nat) : (s.putY r).blkout = s.blkout := rfl
@[simp] theorem State.putY_rk (s : State) (r : Nat) : (s.putY r).rk = s.rk := rfl
@[simp] theorem State.putY_n (s : State) (r : Nat) : (s.putY r).n = s.n := rfl
@[simp] theorem State.putY_e (s : State) (r : Nat) : (s.putY r).e = s.e := rfl
@[simp] theorem State.putY_d (s : State) (r : Nat) : (s.putY r).d = s.d := rfl
@[simp] theorem State.putY_x (s : State) (r : Nat) : (s.putY r).x = s.x := rfl
@[simp] theorem State.putY_y (s : State) (r : Nat) : (s.putY r).y = toBE r s.cfg.meeBytes := rfl
@[simp] theorem State.putY_h (s : State) (r : Nat) : (s.putY r).h = s.h := rfl
@[simp] theorem State.putY_buf (s : State) (r : Nat) : (s.putY r).buf = s.buf := rfl
@[simp] theorem State.putY_powerOns (s : State) (r : Nat) : (s.putY r).powerOns = s.powerOns := rfl
@[simp] theorem State.putY_pending (s : State) (r : Nat) : (s.putY r).pending = s.pending := rfl
@[simp] theorem State.putY_replies (s : State) (r : Nat) : (s.putY r).replies = s.replies := rfl

/-! ### clearRegisters -/

@[simp] theorem State.clearRegisters_cfg (s : State) : (s.clearRegisters).cfg = s.cfg := rfl
@[simp] theorem State.clearRegisters_errf (s : State) : (s.clearRegisters).errf = false := rfl
@[simp] theorem State.clearRegisters_rkvalid (s : State) : (s.clearRegisters).rkvalid = false := rfl
@[simp] theorem State.clearRegisters_vok (s : State) : (s.clearRegisters).vok = false := rfl
@[simp] theorem State.clearRegisters_err (s : State) : (s.clearRegisters).err = .none := rfl
@[simp] theorem State.clearRegisters_src (s : State) : (s.clearRegisters).src = 0 := rfl
@[simp] theorem State.clearRegisters_dst (s : State) : (s.clearRegisters).dst = 0 := rfl
@[simp] theorem State.clearRegisters_len (s : State) : (s.clearRegisters).len = 0 := rfl
@[simp] theorem State.clearRegisters_outlen (s : State) : (s.clearRegisters).outlen = 0 := rfl
@[simp] theorem State.clearRegisters_key (s : State) : (s.clearRegisters).key = 0 := rfl
@[simp] theorem State.clearRegisters_iv (s : State) : (s.clearRegisters).iv = 0 := rfl
@[simp] theorem State.clearRegisters_blkin (s : State) : (s.clearRegisters).blkin = 0 := rfl
@[simp] theorem State.clearRegisters_blkout (s : State) : (s.clearRegisters).blkout = 0 := rfl
@[simp] theorem State.clearRegisters_rk (s : State) : (s.clearRegisters).rk = Vector.replicate 16 0 := rfl
@[simp] theorem State.clearRegisters_n (s : State) : (s.clearRegisters).n = zeros s.cfg.meeBytes := rfl
@[simp] theorem State.clearRegisters_e (s : State) : (s.clearRegisters).e = zeros s.cfg.meeBytes := rfl
@[simp] theorem State.clearRegisters_d (s : State) : (s.clearRegisters).d = zeros s.cfg.meeBytes := rfl
@[simp] theorem State.clearRegisters_x (s : State) : (s.clearRegisters).x = zeros s.cfg.meeBytes := rfl
@[simp] theorem State.clearRegisters_y (s : State) : (s.clearRegisters).y = zeros s.cfg.meeBytes := rfl
@[simp] theorem State.clearRegisters_h (s : State) : (s.clearRegisters).h = zeros s.cfg.meeBytes := rfl
@[simp] theorem State.clearRegisters_buf (s : State) : (s.clearRegisters).buf = s.buf := rfl
@[simp] theorem State.clearRegisters_powerOns (s : State) : (s.clearRegisters).powerOns = s.powerOns := rfl
@[simp] theorem State.clearRegisters_pending (s : State) : (s.clearRegisters).pending = s.pending := rfl
@[simp] theorem State.clearRegisters_replies (s : State) : (s.clearRegisters).replies = s.replies := rfl

/-! ### hardwareReset -/

@[simp] theorem State.hardwareReset_cfg (s : State) : (s.hardwareReset).cfg = s.cfg := rfl
@[simp] theorem State.hardwareReset_errf (s : State) : (s.hardwareReset).errf = false := rfl
@[simp] theorem State.hardwareReset_rkvalid (s : State) : (s.hardwareReset).rkvalid = false := rfl
@[simp] theorem State.hardwareReset_vok (s : State) : (s.hardwareReset).vok = false := rfl
@[simp] theorem State.hardwareReset_err (s : State) : (s.hardwareReset).err = .none := rfl
@[simp] theorem State.hardwareReset_src (s : State) : (s.hardwareReset).src = 0 := rfl
@[simp] theorem State.hardwareReset_dst (s : State) : (s.hardwareReset).dst = 0 := rfl
@[simp] theorem State.hardwareReset_len (s : State) : (s.hardwareReset).len = 0 := rfl
@[simp] theorem State.hardwareReset_outlen (s : State) : (s.hardwareReset).outlen = 0 := rfl
@[simp] theorem State.hardwareReset_key (s : State) : (s.hardwareReset).key = 0 := rfl
@[simp] theorem State.hardwareReset_iv (s : State) : (s.hardwareReset).iv = 0 := rfl
@[simp] theorem State.hardwareReset_blkin (s : State) : (s.hardwareReset).blkin = 0 := rfl
@[simp] theorem State.hardwareReset_blkout (s : State) : (s.hardwareReset).blkout = 0 := rfl
@[simp] theorem State.hardwareReset_rk (s : State) : (s.hardwareReset).rk = Vector.replicate 16 0 := rfl
@[simp] theorem State.hardwareReset_n (s : State) : (s.hardwareReset).n = zeros s.cfg.meeBytes := rfl
@[simp] theorem State.hardwareReset_e (s : State) : (s.hardwareReset).e = zeros s.cfg.meeBytes := rfl
@[simp] theorem State.hardwareReset_d (s : State) : (s.hardwareReset).d = zeros s.cfg.meeBytes := rfl
@[simp] theorem State.hardwareReset_x (s : State) : (s.hardwareReset).x = zeros s.cfg.meeBytes := rfl
@[simp] theorem State.hardwareReset_y (s : State) : (s.hardwareReset).y = zeros s.cfg.meeBytes := rfl
@[simp] theorem State.hardwareReset_h (s : State) : (s.hardwareReset).h = zeros s.cfg.meeBytes := rfl
@[simp] theorem State.hardwareReset_buf (s : State) : (s.hardwareReset).buf = [] := rfl
@[simp] theorem State.hardwareReset_powerOns (s : State) : (s.hardwareReset).powerOns = s.powerOns + 1 := rfl
@[simp] theorem State.hardwareReset_pending (s : State) : (s.hardwareReset).pending = s.pending := rfl
@[simp] theorem State.hardwareReset_replies (s : State) : (s.hardwareReset).replies = s.replies := rfl

/-! ### putReg: the fields that are no register -/

@[simp] theorem State.putReg_cfg (s : State) (r : Reg) (v : Bytes) : (s.putReg r v).cfg = s.cfg := by cases r <;> rfl
@[simp] theorem State.putReg_errf (s : State) (r : Reg) (v : Bytes) : (s.putReg r v).errf = s.errf := by cases r <;> rfl
@[simp] theorem State.putReg_rkvalid (s : State) (r : Reg) (v : Bytes) : (s.putReg r v).rkvalid = s.rkvalid := by cases r <;> rfl
@[simp] theorem State.putReg_vok (s : State) (r : Reg) (v : Bytes) : (s.putReg r v).vok = s.vok := by cases r <;> rfl
@[simp] theorem State.putReg_err (s : State) (r : Reg) (v : Bytes) : (s.putReg r v).err = s.err := by cases r <;> rfl
@[simp] theorem State.putReg_rk (s : State) (r : Reg) (v : Bytes) : (s.putReg r v).rk = s.rk := by cases r <;> rfl
@[simp] theorem State.putReg_buf (s : State) (r : Reg) (v : Bytes) : (s.putReg r v).buf = s.buf := by cases r <;> rfl
@[simp] theorem State.putReg_powerOns (s : State) (r : Reg) (v : Bytes) : (s.putReg r v).powerOns = s.powerOns := by cases r <;> rfl
@[simp] theorem State.putReg_pending (s : State) (r : Reg) (v : Bytes) : (s.putReg r v).pending = s.pending := by cases r <;> rfl
@[simp] theorem State.putReg_replies (s : State) (r : Reg) (v : Bytes) : (s.putReg r v).replies = s.replies := by cases r <;> rfl

/-! ### afterPowerOn: the fields claims name -/

@[simp] theorem State.afterPowerOn_cfg (c : Config) (p : Nat) : (State.afterPowerOn c p).cfg = c := rfl
@[simp] theorem State.afterPowerOn_powerOns (c : Config) (p : Nat) : (State.afterPowerOn c p).powerOns = p := rfl
@[simp] theorem State.afterPowerOn_buf (c : Config) (p : Nat) : (State.afterPowerOn c p).buf = [] := rfl
@[simp] theorem State.afterPowerOn_pending (c : Config) (p : Nat) : (State.afterPowerOn c p).pending = [] := rfl
@[simp] theorem State.afterPowerOn_replies (c : Config) (p : Nat) : (State.afterPowerOn c p).replies = [] := rfl
@[simp] theorem State.afterPowerOn_rkvalid (c : Config) (p : Nat) : (State.afterPowerOn c p).rkvalid = false := rfl

end Sys2Proof.Machine
end

