-- ==== Sys2Proof/Laws/Commands.lean ====
section
/-! SUPPORT. What each shared operation of the commands can do, said once: how a command's template ends, and that every
command answers a next state. -/

namespace Sys2Proof.Machine

/-- The four checks of CmcChecks (43_chaining.md R82): which code, in which case, and what an accepted command gets. -/
theorem State.cmcChecks_cases (s : State) (m : CmcMode) (dir : CmcDir) :
    (s.rkvalid = false ∧ s.cmcChecks m dir = .error .nokey) ∨
    (s.rkvalid = true ∧ cmcBadLen m dir s.len.toNat = true ∧ s.cmcChecks m dir = .error .len) ∨
    (s.rkvalid = true ∧ cmcBadLen m dir s.len.toNat = false ∧
      (s.cfg.bufBytes < s.src.toNat + s.len.toNat ∨
        s.cfg.bufBytes < s.dst.toNat + cmcOutLen m dir s.len.toNat) ∧ s.cmcChecks m dir = .error .bounds) ∨
    (s.rkvalid = true ∧ cmcBadLen m dir s.len.toNat = false ∧
      s.src.toNat + s.len.toNat ≤ s.cfg.bufBytes ∧ s.dst.toNat + cmcOutLen m dir s.len.toNat ≤ s.cfg.bufBytes ∧
      (s.src.toNat ≠ s.dst.toNat ∧ s.src.toNat < s.dst.toNat + cmcOutLen m dir s.len.toNat ∧
        s.dst.toNat < s.src.toNat + s.len.toNat) ∧ s.cmcChecks m dir = .error .overlap) ∨
    (s.rkvalid = true ∧ cmcBadLen m dir s.len.toNat = false ∧
      s.src.toNat + s.len.toNat ≤ s.cfg.bufBytes ∧ s.dst.toNat + cmcOutLen m dir s.len.toNat ≤ s.cfg.bufBytes ∧
      ¬ (s.src.toNat ≠ s.dst.toNat ∧ s.src.toNat < s.dst.toNat + cmcOutLen m dir s.len.toNat ∧
        s.dst.toNat < s.src.toNat + s.len.toNat) ∧
      s.cmcChecks m dir =
        .ok ⟨s.src.toNat, s.dst.toNat, s.len.toNat, cmcOutLen m dir s.len.toNat⟩) := by
  unfold State.cmcChecks
  by_cases hk : s.rkvalid = false
  · exact .inl ⟨hk, by simp [hk]⟩
  have hk' : s.rkvalid = true := by simpa using hk
  by_cases hl : cmcBadLen m dir s.len.toNat = true
  · exact .inr (.inl ⟨hk', hl, by simp [hk', hl]⟩)
  have hl' : cmcBadLen m dir s.len.toNat = false := by simpa using hl
  by_cases hb : s.src.toNat + s.len.toNat > s.cfg.bufBytes ∨
      s.dst.toNat + cmcOutLen m dir s.len.toNat > s.cfg.bufBytes
  · exact .inr (.inr (.inl ⟨hk', hl', hb, by simp [hk', hl', hb]⟩))
  have hb1 : s.src.toNat + s.len.toNat ≤ s.cfg.bufBytes := by omega
  have hb2 : s.dst.toNat + cmcOutLen m dir s.len.toNat ≤ s.cfg.bufBytes := by omega
  by_cases ho : s.src.toNat ≠ s.dst.toNat ∧ s.src.toNat < s.dst.toNat + cmcOutLen m dir s.len.toNat ∧
      s.dst.toNat < s.src.toNat + s.len.toNat
  · refine .inr (.inr (.inr (.inl ⟨hk', hl', hb1, hb2, ho, ?_⟩)))
    simp only [hk', hl', Bool.true_eq_false, Bool.false_eq_true, if_false, if_neg hb, if_pos ho]
  · refine .inr (.inr (.inr (.inr ⟨hk', hl', hb1, hb2, ho, ?_⟩)))
    simp only [hk', hl', Bool.true_eq_false, Bool.false_eq_true, if_false, if_neg hb, if_neg ho]

/-- A CMC command fails with one of its codes and changes nothing else, or writes its output, OUTLEN and a success. -/
theorem State.cmcCommand_cases (s : State) (m : CmcMode) (dir : CmcDir) (f : Bytes → Bytes) :
    (∃ c : ErrCode, c ≠ .none ∧ s.cmcChecks m dir = .error c ∧ s.cmcCommand m dir f = s.raise c) ∨
    (s.cmcChecks m dir = .ok ⟨s.src.toNat, s.dst.toNat, s.len.toNat, cmcOutLen m dir s.len.toNat⟩ ∧
      s.cmcCommand m dir f =
        { s.memWrite s.dst.toNat (f (s.memRead s.src.toNat s.len.toNat)) with
          outlen := BitVec.ofNat 16 (cmcOutLen m dir s.len.toNat) }.succeed) := by
  unfold State.cmcCommand
  rcases s.cmcChecks_cases m dir with h | h | h | h | h
  · exact .inl ⟨.nokey, by decide, h.2, by rw [h.2]⟩
  · exact .inl ⟨.len, by decide, h.2.2, by rw [h.2.2]⟩
  · exact .inl ⟨.bounds, by decide, h.2.2.2, by rw [h.2.2.2]⟩
  · exact .inl ⟨.overlap, by decide, h.2.2.2.2.2, by rw [h.2.2.2.2.2]⟩
  · exact .inr ⟨h.2.2.2.2.2, by rw [h.2.2.2.2.2]⟩

/-- A block command fails with E_NOKEY, or writes BLKOUT and a success. -/
theorem State.blockCommand_cases (s : State) (cipher : Block → RoundKeys → Block) :
    (s.rkvalid = false ∧ s.blockCommand cipher = s.raise .nokey) ∨
    (s.rkvalid = true ∧ s.blockCommand cipher = { s with blkout := cipher s.blkin s.rk }.succeed) := by
  unfold State.blockCommand
  cases h : s.rkvalid <;> simp

/-- PKENC, PKDEC and PKSIGN fail with E_RANGE, or write Y and a success. -/
theorem State.pkCommand_cases (s : State) (exponent : Bytes) :
    ((BE s.n = 0 ∨ BE s.n ≤ BE s.x) ∧ s.pkCommand exponent = s.raise .range) ∨
    (BE s.n ≠ 0 ∧ BE s.x < BE s.n ∧
      s.pkCommand exponent = (s.putY (modExp (BE s.x) (BE exponent) (BE s.n))).succeed) := by
  unfold State.pkCommand
  by_cases h : BE s.n = 0 ∨ BE s.n ≤ BE s.x
  · exact .inl ⟨h, if_pos h⟩
  · exact .inr ⟨by omega, by omega, if_neg h⟩

/-- PKVFY fails with E_RANGE for N = 0, or writes Y and a success with its VOK. -/
theorem State.pkVerify_cases (s : State) :
    (BE s.n = 0 ∧ s.pkVerify = s.raise .range) ∨
    (BE s.n ≠ 0 ∧ s.pkVerify =
      { (s.putY (modExp (BE s.x) (BE s.e) (BE s.n))).succeed with
        vok := decide (modExp (BE s.x) (BE s.e) (BE s.n) = BE s.h) }) := by
  unfold State.pkVerify
  by_cases h : BE s.n = 0
  · exact .inl ⟨h, if_pos h⟩
  · exact .inr ⟨h, if_neg h⟩

/-- Every command answers a next state. -/
theorem exec_answers_next (i : Instr) (s : State) : ∃ t, exec i s = .next t := by
  cases i <;> exact ⟨_, rfl⟩

/-- A byte written to CMD runs the command it decodes to, or raises E_ILLCMD. -/
theorem issueCommand_cases (c : Byte) (s : State) :
    (∃ i, decode c = .ok i ∧ issueCommand c s = exec i s) ∨
    (∃ e, decode c = .error e ∧ issueCommand c s = .next (s.raise .illcmd)) := by
  unfold issueCommand
  cases h : decode c with
  | ok i => exact .inl ⟨i, rfl, rfl⟩
  | error e => exact .inr ⟨e, rfl, rfl⟩

/-- A host write issues a command, or stores. -/
theorem hostWrite_cases (a : Addr) (b : Byte) (s : State) :
    (locate s.cfg a.toNat = .cmd ∧ hostWrite a b s = issueCommand b s) ∨
    (locate s.cfg a.toNat ≠ .cmd ∧ hostWrite a b s = .next (s.storeByte a b)) := by
  unfold hostWrite
  cases h : locate s.cfg a.toNat <;> simp

/-- A store puts a writable register's byte (for KEY with its side effect), a byte of BUF, or nothing. -/
theorem State.storeByte_cases (s : State) (a : Addr) (b : Byte) :
    (∃ r i, locate s.cfg a.toNat = .reg r i ∧ r.hostWritable = true ∧ r ≠ .key ∧
      s.storeByte a b = s.putReg r ((s.regBytes r).set i b)) ∨
    (∃ i, locate s.cfg a.toNat = .reg .key i ∧
      s.storeByte a b = (s.putReg .key ((s.regBytes .key).set i b)).dropRoundKeys) ∨
    (∃ off, locate s.cfg a.toNat = .buf off ∧ s.storeByte a b = s.memWrite off [b]) ∨
    s.storeByte a b = s := by
  unfold State.storeByte
  cases h : locate s.cfg a.toNat with
  | reg r i =>
    by_cases hw : r.hostWritable = true
    · by_cases hk : r = .key
      · subst hk
        exact .inr (.inl ⟨i, rfl, by simp [Reg.hostWritable]⟩)
      · exact .inl ⟨r, i, rfl, hw, hk, by simp [hw, hk]⟩
    · exact .inr (.inr (.inr (by simp [hw])))
  | buf off => exact .inr (.inr (.inl ⟨off, rfl, rfl⟩))
  | cmd => exact .inr (.inr (.inr rfl))
  | status => exact .inr (.inr (.inr rfl))
  | err => exact .inr (.inr (.inr rfl))
  | rk i j => exact .inr (.inr (.inr rfl))
  | reserved => exact .inr (.inr (.inr rfl))

/-- One step: nothing pending and nothing happens, or the first pending event. -/
theorem step_cases (s : State) :
    (s.pending = [] ∧ step s = .next s) ∨
    (∃ ev rest, s.pending = ev :: rest ∧ step s = hostEvent ev { s with pending := rest }) := by
  unfold step hostStep
  cases h : s.pending with
  | nil => exact .inl ⟨rfl, rfl⟩
  | cons ev rest => exact .inr ⟨ev, rest, rfl, rfl⟩

/-! ### The address map -/

/-- The address map's BUF window: the offset is inside BUF. -/
theorem locate_buf {c : Config} {a off : Nat} (h : locate c a = .buf off) : off < c.bufBytes ∧ a = 0x4000 + off := by
  unfold locate at h
  split at h
  · cases h
  split at h
  · cases h
  split at h
  · cases h
  split at h
  · cases h
  split at h
  · injection h with h
    omega
  · split at h <;> cases h

/-- The address map's registers: the byte index is inside the register. -/
theorem locate_reg {c : Config} {a i : Nat} {r : Reg} (h : locate c a = .reg r i) :
    i < r.width c ∧ a = r.base + i := by
  unfold locate at h
  split at h
  · cases h
  split at h
  · cases h
  split at h
  · cases h
  split at h
  · cases h
  split at h
  · cases h
  · split at h
    · rename_i q hq
      injection h with h1 h2
      subst h1
      have := List.find?_some hq
      simp only [Bool.and_eq_true, decide_eq_true_eq] at this
      omega
    · cases h

/-- No two registers share an address. -/
theorem Reg.eq_of_shared_address {c : Config} {r q : Reg} {a : Nat} (hr : r.base ≤ a) (hr' : a < r.base + r.width c)
    (hq : q.base ≤ a) (hq' : a < q.base + q.width c) : q = r := by
  have h1 := c.mee_max
  cases r <;> simp only [Reg.base, Reg.width] at hr hr' <;> cases q <;>
    first | rfl | (simp only [Reg.base, Reg.width] at hq hq'; omega)

/-- Where the registers lie: clear of CMD, STATUS, ERR, the RK window and BUF. -/
theorem Reg.base_clear (c : Config) (r : Reg) {i : Nat} (h : i < r.width c) :
    3 ≤ r.base + i ∧ (r.base + i < 0x40 ∨ 0xA0 ≤ r.base + i) ∧ r.base + i < 0x4000 := by
  have h1 := c.mee_max
  cases r <;> simp only [Reg.base, Reg.width] at h ⊢ <;> omega

/-- The register map without overlap: each byte of each register is found at its address. -/
theorem locate_base_add (c : Config) (r : Reg) {i : Nat} (h : i < r.width c) : locate c (r.base + i) = .reg r i := by
  obtain ⟨h1, h2, h3⟩ := r.base_clear c h
  unfold locate
  rw [if_neg (by omega), if_neg (by omega), if_neg (by omega), if_neg (by omega), if_neg (by omega)]
  cases hf : Reg.all.find? (fun q => decide (q.base ≤ r.base + i) && decide (r.base + i < q.base + q.width c)) with
  | none =>
    have := List.find?_eq_none.1 hf r (by cases r <;> decide)
    simp only [Bool.and_eq_true, decide_eq_true_eq] at this
    omega
  | some q =>
    have := List.find?_some hf
    simp only [Bool.and_eq_true, decide_eq_true_eq] at this
    have hq : q = r := Reg.eq_of_shared_address (a := r.base + i) (by omega) (by omega) this.1 this.2
    subst hq
    simp

end Sys2Proof.Machine
end

