-- ==== Sys2Proof/Laws/Chaining.lean ====
section
/-! SUPPORT. The lengths of the mode functions' results (spec/43_chaining.md R83 to R88). -/

namespace Sys2Proof.Machine

@[simp] theorem length_e8 (k : RoundKeys) (b : Bytes) : (e8 k b).length = 8 := by simp [e8]

@[simp] theorem length_d8 (k : RoundKeys) (b : Bytes) : (d8 k b).length = 8 := by simp [d8]

@[simp] theorem length_slice (s : Bytes) (a b : Nat) : (slice s a b).length = min b s.length - a := by simp [slice]

@[simp] theorem length_xorBytes (a b : Bytes) : (xorBytes a b).length = min a.length b.length := by simp [xorBytes]

theorem length_blk {s : Bytes} {j : Nat} (h : j < s.length / 8) : (blk s j).length = 8 := by
  simp only [blk, length_slice]
  omega

@[simp] theorem length_wholeBlocks (s : Bytes) : (wholeBlocks s).length = s.length / 8 := by simp [wholeBlocks]

theorem length_of_mem_wholeBlocks {s b : Bytes} (h : b ∈ wholeBlocks s) : b.length = 8 := by
  simp only [wholeBlocks, List.mem_map, List.mem_range] at h
  obtain ⟨j, hj, rfl⟩ := h
  exact length_blk hj

theorem length_flatten_map {f : Bytes → Bytes} (hf : ∀ b, (f b).length = 8) (bs : List Bytes) :
    (bs.map f).flatten.length = 8 * bs.length := by
  induction bs with
  | nil => rfl
  | cons b bs ih =>
    simp only [List.map_cons, List.flatten_cons, List.length_append, hf, ih, List.length_cons]
    omega

theorem length_ecbEnc (k : RoundKeys) (p : Bytes) : (ecbEnc k p).length = 8 * ceil8 p.length := by
  rw [ecbEnc, length_flatten_map (length_e8 k), length_wholeBlocks, List.length_append, length_zeros]
  simp only [ceil8]
  omega

theorem length_ecbDec (k : RoundKeys) {c : Bytes} (h : c.length % 8 = 0) : (ecbDec k c).length = c.length := by
  rw [ecbDec, length_flatten_map (length_d8 k), length_wholeBlocks]
  omega

theorem length_cbcEncBlocks (k : RoundKeys) (chain : Bytes) (bs : List Bytes) :
    (cbcEncBlocks k chain bs).length = 8 * bs.length := by
  induction bs generalizing chain with
  | nil => rfl
  | cons b bs ih =>
    simp only [cbcEncBlocks, List.length_append, length_e8, ih, List.length_cons]
    omega

theorem length_cbcEnc (k : RoundKeys) (iv : Bytes) {p : Bytes} (h : p.length % 8 = 0) :
    (cbcEnc k iv p).length = p.length := by
  rw [cbcEnc, length_cbcEncBlocks, length_wholeBlocks]
  omega

theorem length_cbcDecBlocks (k : RoundKeys) {chain : Bytes} (hc : chain.length = 8) {bs : List Bytes}
    (hb : ∀ b ∈ bs, b.length = 8) : (cbcDecBlocks k chain bs).length = 8 * bs.length := by
  induction bs generalizing chain with
  | nil => rfl
  | cons b bs ih =>
    have h8 := hb b (List.mem_cons_self ..)
    have := ih h8 fun x hx => hb x (List.mem_cons_of_mem _ hx)
    simp only [cbcDecBlocks, List.length_append, length_xorBytes, length_d8, hc, this, List.length_cons]
    omega

theorem length_cbcDec (k : RoundKeys) {iv c : Bytes} (hi : iv.length = 8) (h : c.length % 8 = 0) :
    (cbcDec k iv c).length = c.length := by
  rw [cbcDec, length_cbcDecBlocks k hi fun b hb => length_of_mem_wholeBlocks hb, length_wholeBlocks]
  omega

theorem length_ctsEnc (k : RoundKeys) (iv : Bytes) {p : Bytes} (h : 8 ≤ p.length) :
    (ctsEnc k iv p).length = p.length := by
  unfold ctsEnc
  by_cases h0 : p.length % 8 = 0
  · simp [h0, length_cbcEnc k iv h0]
  · have hh : (slice p 0 (8 * (ceil8 p.length - 2))).length % 8 = 0 := by
      simp only [length_slice, ceil8]
      omega
    simp only [h0, if_false, List.length_append, length_cbcEnc k iv hh, length_slice, length_e8]
    simp only [ceil8]
    omega

theorem length_ctsDec (k : RoundKeys) {iv c : Bytes} (hi : iv.length = 8) (h : 8 ≤ c.length) :
    (ctsDec k iv c).length = c.length := by
  unfold ctsDec
  by_cases h0 : c.length % 8 = 0
  · simp [h0, length_cbcDec k hi h0]
  · have hh : (slice c 0 (8 * (ceil8 c.length - 2))).length % 8 = 0 := by
      simp only [length_slice, ceil8]
      omega
    have hch : (if ceil8 c.length > 2 then blk c (ceil8 c.length - 3) else iv).length = 8 := by
      split
      · rename_i h2
        refine length_blk ?_
        simp only [ceil8] at h2 ⊢
        omega
      · exact hi
    simp only [h0, if_false, List.length_append, length_cbcDec k hi hh, length_slice, length_d8, length_xorBytes, hch]
    simp only [ceil8]
    omega

/-- The IV as a byte string has 8 bytes. -/
theorem State.length_regBytes_iv (s : State) : (s.regBytes .iv).length = 8 := length_bytesOf s.iv

/-- An accepted length is positive, and a whole number of blocks or at least one block as the mode asks (R82). -/
theorem cmcBadLen_false {m : CmcMode} {dir : CmcDir} {n : Nat} (h : cmcBadLen m dir n = false) :
    0 < n ∧ (m = .cbc ∨ (m = .ecb ∧ dir = .dec) → n % 8 = 0) ∧ (m = .cts → 8 ≤ n) := by
  cases m <;> cases dir <;> simp [cmcBadLen] at h ⊢ <;> omega

end Sys2Proof.Machine
end

