-- ==== Sys2Proof/Laws/Memory.lean ====
section
/-! SUPPORT. BUF: every write keeps the canonical form, a read after a write gives the bytes written, and every other byte
is as before. -/

namespace Sys2Proof.Machine

namespace Memory

@[simp] theorem lookup_nil (a : Nat) : lookup [] a = none := rfl

theorem lookup_append (m m' : List Host.Cell) (a : Nat) :
    lookup (m ++ m') a = (lookup m a).or (lookup m' a) := by
  induction m with
  | nil => simp
  | cons c m ih =>
    simp only [List.cons_append, lookup]
    split <;> simp_all

theorem lookup_filter (p : Nat → Bool) (m : List Host.Cell) (a : Nat) :
    lookup (m.filter fun c => p c.1) a = if p a then lookup m a else none := by
  induction m with
  | nil => simp
  | cons c m ih =>
    by_cases hc : p c.1 <;> by_cases ha : c.1 = a <;> simp_all [lookup]

theorem lookup_cells (off : Nat) (bs : Bytes) (a : Nat) :
    lookup (cells off bs) a = if off ≤ a then bs[a - off]? else none := by
  induction bs generalizing off with
  | nil => simp [cells]
  | cons b bs ih =>
    rw [cells, lookup, ih]
    by_cases h : off = a
    · simp [h]
    · by_cases hle : off ≤ a
      · have h1 : off + 1 ≤ a := by omega
        have h2 : a - off = (a - (off + 1)) + 1 := by omega
        simp [h, hle, h1, h2]
      · have h1 : ¬ off + 1 ≤ a := by omega
        simp [h, hle, h1]

/-- What a write leaves at each offset: the new byte inside the written range, the old one outside it. -/
theorem lookup_writeBytes (m : List Host.Cell) (off : Nat) (bs : Bytes) (a : Nat) :
    lookup (writeBytes m off bs) a =
      if off ≤ a ∧ a < off + bs.length then bs[a - off]? else lookup m a := by
  rw [writeBytes, lookup_append, lookup_append, lookup_cells,
    lookup_filter (fun x => decide (x < off)), lookup_filter (fun x => decide (off + bs.length ≤ x))]
  by_cases h1 : a < off
  · have : ¬ off ≤ a := by omega
    have : ¬ off + bs.length ≤ a := by omega
    simp [*]
  · by_cases h2 : a < off + bs.length
    · have h3 : off ≤ a := by omega
      have h4 : a - off < bs.length := by omega
      simp [h1, h2, h3, h4]
    · have h3 : off ≤ a := by omega
      have h4 : off + bs.length ≤ a := by omega
      have h5 : bs.length ≤ a - off := by omega
      simp [h1, h2, h3, h4, h5]

theorem mem_cells {off : Nat} {bs : Bytes} {c : Host.Cell} (h : c ∈ cells off bs) :
    off ≤ c.1 ∧ c.1 < off + bs.length := by
  induction bs generalizing off with
  | nil => simp [cells] at h
  | cons b bs ih =>
    rw [cells, List.mem_cons] at h
    rcases h with rfl | h
    · simp
    · have := ih h
      simp only [List.length_cons]
      omega

theorem cells_wf (off : Nat) (bs : Bytes) : wf (cells off bs) := by
  induction bs generalizing off with
  | nil => exact List.Pairwise.nil
  | cons b bs ih =>
    refine List.Pairwise.cons (fun c hc => ?_) (ih (off + 1))
    have := mem_cells hc
    show off < c.1
    omega

/-- A write keeps the canonical form. -/
theorem writeBytes_wf {m : List Host.Cell} (off : Nat) (bs : Bytes) (h : wf m) : wf (writeBytes m off bs) := by
  rw [writeBytes, wf, List.pairwise_append, List.pairwise_append]
  refine ⟨⟨h.filter _, cells_wf off bs, ?_⟩, h.filter _, ?_⟩
  · intro a ha b hb
    have h1 := (List.mem_filter.1 ha).2
    have h2 := mem_cells hb
    simp only [decide_eq_true_eq] at h1
    omega
  · intro a ha b hb
    have h2 := (List.mem_filter.1 hb).2
    simp only [decide_eq_true_eq] at h2
    rcases List.mem_append.1 ha with ha | ha
    · have h1 := (List.mem_filter.1 ha).2
      simp only [decide_eq_true_eq] at h1
      omega
    · have h1 := mem_cells ha
      omega

/-- A cell of the list after a write is one from before or one of the bytes written. -/
theorem mem_writeBytes {m : List Host.Cell} {off : Nat} {bs : Bytes} {c : Host.Cell} (h : c ∈ writeBytes m off bs) :
    c ∈ m ∨ (off ≤ c.1 ∧ c.1 < off + bs.length) := by
  rw [writeBytes, List.mem_append, List.mem_append] at h
  rcases h with (h | h) | h
  · exact .inl (List.mem_of_mem_filter h)
  · exact .inr (mem_cells h)
  · exact .inl (List.mem_of_mem_filter h)

end Memory

/-- A byte of BUF inside a write is the byte written. -/
theorem State.bufByte_memWrite_inside (s : State) (off : Nat) (out : Bytes) {j : Nat} (h : j < out.length) :
    (s.memWrite off out).bufByte (off + j) = out.getD j 0 := by
  have h2 : off ≤ off + j ∧ off + j < off + out.length := by omega
  rw [State.bufByte, State.memWrite_buf, Memory.lookup_writeBytes, if_pos h2, Nat.add_sub_cancel_left]
  simp [h]

/-- A byte of BUF outside a write is as before. -/
theorem State.bufByte_memWrite_outside (s : State) (off : Nat) (out : Bytes) {a : Nat}
    (h : a < off ∨ off + out.length ≤ a) : (s.memWrite off out).bufByte a = s.bufByte a := by
  have h2 : ¬ (off ≤ a ∧ a < off + out.length) := by omega
  rw [State.bufByte, State.memWrite_buf, Memory.lookup_writeBytes, if_neg h2]
  rfl

@[simp] theorem State.length_memRead (s : State) (off n : Nat) : (s.memRead off n).length = n := by
  simp [State.memRead]

/-- Byte i of what MemRead returns is BUF[off + i]. -/
theorem State.getD_memRead (s : State) (off n : Nat) {i : Nat} (h : i < n) :
    (s.memRead off n).getD i 0 = s.bufByte (off + i) := by
  simp [State.memRead, h]

end Sys2Proof.Machine
end

