-- ==== Sys2Proof/Laws/Exec.lean ====
section
/-! SUPPORT. What a command can do, said once for all fifteen: later proofs take a command apart by `cases` on this and
never unfold a meaning. -/

namespace Sys2Proof.Machine

/-- What command `i` can make of `s`, everything it writes and everything it leaves. -/
inductive ExecEffect (s : State) : Instr → State → Prop
  /-- A failure: the status only. -/
  | failed (i : Instr) (c : ErrCode) (hc : c ≠ .none) : ExecEffect s i (s.raise c)
  | nop : ExecEffect s .nop s.succeed
  | srst : ExecEffect s .srst s.clearRegisters
  | keyexp : ExecEffect s .keyexp { s with rk := keySchedule s.key, rkvalid := true }.succeed
  | blkenc (hk : s.rkvalid = true) :
    ExecEffect s .blkenc { s with blkout := encryptBlock s.blkin s.rk }.succeed
  | blkdec (hk : s.rkvalid = true) :
    ExecEffect s .blkdec { s with blkout := decryptBlock s.blkin s.rk }.succeed
  /-- A CMC command that wrote an output inside BUF. -/
  | cmc (i : Instr) (out : Bytes) (hi : i ∈ [Instr.ecbenc, .ecbdec, .cbcenc, .cbcdec, .ctsenc, .ctsdec])
    (hk : s.rkvalid = true) (hb : s.dst.toNat + out.length ≤ s.cfg.bufBytes) :
    ExecEffect s i { s.memWrite s.dst.toNat out with outlen := BitVec.ofNat 16 out.length }.succeed
  | pkenc (hn : BE s.n ≠ 0) (hx : BE s.x < BE s.n) :
    ExecEffect s .pkenc (s.putY (modExp (BE s.x) (BE s.e) (BE s.n))).succeed
  | pkdec (hn : BE s.n ≠ 0) (hx : BE s.x < BE s.n) :
    ExecEffect s .pkdec (s.putY (modExp (BE s.x) (BE s.d) (BE s.n))).succeed
  | pksign (hn : BE s.n ≠ 0) (hx : BE s.x < BE s.n) :
    ExecEffect s .pksign (s.putY (modExp (BE s.x) (BE s.d) (BE s.n))).succeed
  | pkvfy (hn : BE s.n ≠ 0) :
    ExecEffect s .pkvfy { (s.putY (modExp (BE s.x) (BE s.e) (BE s.n))).succeed with
      vok := decide (modExp (BE s.x) (BE s.e) (BE s.n) = BE s.h) }

/-- The CMC template has one of those effects, when the mode function gives n_out bytes on every accepted length. -/
theorem ExecEffect.of_cmcCommand (s : State) (i : Instr) (m : CmcMode) (dir : CmcDir) (f : Bytes → Bytes)
    (hi : i ∈ [Instr.ecbenc, .ecbdec, .cbcenc, .cbcdec, .ctsenc, .ctsdec])
    (hf : ∀ p : Bytes, cmcBadLen m dir p.length = false → (f p).length = cmcOutLen m dir p.length) :
    ExecEffect s i (s.cmcCommand m dir f) := by
  rcases s.cmcCommand_cases m dir f with ⟨c, hc, _, h2⟩ | ⟨h1, h2⟩
  · rw [h2]
    exact .failed i c hc
  · have hl := hf (s.memRead s.src.toNat s.len.toNat)
    rw [State.length_memRead] at hl
    rcases s.cmcChecks_cases m dir with h | h | h | h | h
    · rw [h.2] at h1; cases h1
    · rw [h.2.2] at h1; cases h1
    · rw [h.2.2.2] at h1; cases h1
    · rw [h.2.2.2.2.2] at h1; cases h1
    · rw [h2, ← hl h.2.1]
      exact .cmc i _ hi h.1 (by rw [hl h.2.1]; exact h.2.2.2.1)

/-- Every outcome of `exec` is one of those effects. -/
theorem exec_effect {i : Instr} {s t : State} (h : exec i s = .next t) : ExecEffect s i t := by
  cases i <;> (injection h with h; subst h)
  · exact .nop
  · exact .srst
  · exact .keyexp
  · rcases s.blockCommand_cases encryptBlock with ⟨_, h⟩ | ⟨hk, h⟩
    · rw [h]; exact .failed _ _ (by decide)
    · rw [h]; exact .blkenc hk
  · rcases s.blockCommand_cases decryptBlock with ⟨_, h⟩ | ⟨hk, h⟩
    · rw [h]; exact .failed _ _ (by decide)
    · rw [h]; exact .blkdec hk
  · exact .of_cmcCommand s _ .ecb .enc _ (by decide) fun p _ => length_ecbEnc s.rk p
  · exact .of_cmcCommand s _ .ecb .dec _ (by decide) fun p hp =>
      length_ecbDec s.rk ((cmcBadLen_false hp).2.1 (.inr ⟨rfl, rfl⟩))
  · exact .of_cmcCommand s _ .cbc .enc _ (by decide) fun p hp =>
      length_cbcEnc s.rk _ ((cmcBadLen_false hp).2.1 (.inl rfl))
  · exact .of_cmcCommand s _ .cbc .dec _ (by decide) fun p hp =>
      length_cbcDec s.rk s.length_regBytes_iv ((cmcBadLen_false hp).2.1 (.inl rfl))
  · exact .of_cmcCommand s _ .cts .enc _ (by decide) fun p hp =>
      length_ctsEnc s.rk _ ((cmcBadLen_false hp).2.2 rfl)
  · exact .of_cmcCommand s _ .cts .dec _ (by decide) fun p hp =>
      length_ctsDec s.rk s.length_regBytes_iv ((cmcBadLen_false hp).2.2 rfl)
  · rcases s.pkCommand_cases s.e with ⟨_, h⟩ | ⟨hn, hx, h⟩
    · rw [h]; exact .failed _ _ (by decide)
    · rw [h]; exact .pkenc hn hx
  · rcases s.pkCommand_cases s.d with ⟨_, h⟩ | ⟨hn, hx, h⟩
    · rw [h]; exact .failed _ _ (by decide)
    · rw [h]; exact .pkdec hn hx
  · rcases s.pkCommand_cases s.d with ⟨_, h⟩ | ⟨hn, hx, h⟩
    · rw [h]; exact .failed _ _ (by decide)
    · rw [h]; exact .pksign hn hx
  · rcases s.pkVerify_cases with ⟨_, h⟩ | ⟨hn, h⟩
    · rw [h]; exact .failed _ _ (by decide)
    · rw [h]; exact .pkvfy hn

end Sys2Proof.Machine
end

