-- ==== Sys2Proof/Laws/HostAccess.lean ====
section
/-! SUPPORT. Host addresses: which address each byte of a register, of RK and of BUF has, and what is read there. -/

namespace Sys2Proof.Machine

/-- A register's byte as a number of the address space: no wrap-around. -/
theorem Reg.toNat_addr (r : Reg) (c : Config) {i : Nat} (h : i < r.width c) : (r.addr i).toNat = r.base + i := by
  have := r.base_clear c h
  simp only [Reg.addr, BitVec.toNat_ofNat]
  omega

theorem toNat_rkAddr {i j : Nat} (hi : i < 16) (hj : j < 6) : (rkAddr i j).toNat = 0x0040 + 6 * i + j := by
  simp only [rkAddr, BitVec.toNat_ofNat]
  omega

theorem toNat_bufAddr (c : Config) {off : Nat} (h : off < c.bufBytes) : (bufAddr off).toNat = 0x4000 + off := by
  have := c.buf_max
  simp only [bufAddr, BitVec.toNat_ofNat]
  omega

/-- The RK window of the address map. -/
theorem locate_rk (c : Config) {i j : Nat} (hi : i < 16) (hj : j < 6) : locate c (0x0040 + 6 * i + j) = .rk i j := by
  unfold locate
  rw [if_neg (by omega), if_neg (by omega), if_neg (by omega), if_pos (by omega)]
  congr 1 <;> omega

/-- The BUF window of the address map. -/
theorem locate_bufOffset (c : Config) {off : Nat} (h : off < c.bufBytes) : locate c (0x4000 + off) = .buf off := by
  unfold locate
  rw [if_neg (by omega), if_neg (by omega), if_neg (by omega), if_neg (by omega), if_pos (by omega),
    Nat.add_sub_cancel_left]

/-- Outside CMD, STATUS, ERR, the registers, RK and BUF the map has nothing (20_memory.md R28). -/
theorem locate_reserved (c : Config) {a : Nat} (h : ReservedAddress c a) : locate c a = .reserved := by
  have h1 := c.mee_max
  have h2 := c.mee_min
  have h3 := c.buf_min
  unfold ReservedAddress at h
  cases hl : locate c a with
  | reserved => rfl
  | reg r i =>
    have := locate_reg hl
    cases r <;> simp only [Reg.width, Reg.base] at this <;> omega
  | buf o =>
    have := locate_buf hl
    omega
  | _ =>
    unfold locate at hl
    rw [if_neg (by omega), if_neg (by omega), if_neg (by omega), if_neg (by omega)] at hl
    split at hl
    · cases hl
    · split at hl <;> cases hl

/-- Only address 0x0000 is CMD. -/
theorem locate_cmd {c : Config} {a : Nat} (h : locate c a = .cmd) : a = 0 := by
  unfold locate at h
  split at h
  · assumption
  · split_ifs at h
    split at h <;> cases h

/-- Byte i of a register, read by the host. -/
theorem State.hostRead_regAddr (s : State) (r : Reg) {i : Nat} (h : i < r.width s.cfg) :
    s.hostRead (r.addr i) = (s.regBytes r).getD i 0 := by
  rw [State.hostRead, r.toNat_addr s.cfg h, locate_base_add s.cfg r h]

/-- Byte j of RK[i], read by the host. -/
theorem State.hostRead_rkAddr (s : State) {i j : Nat} (hi : i < 16) (hj : j < 6) :
    s.hostRead (rkAddr i j) = (s.rkBytes i).getD j 0 := by
  rw [State.hostRead, toNat_rkAddr hi hj, locate_rk s.cfg hi hj]

/-- A byte of BUF, read by the host. -/
theorem State.hostRead_bufAddr (s : State) {off : Nat} (h : off < s.cfg.bufBytes) :
    s.hostRead (bufAddr off) = s.bufByte off := by
  rw [State.hostRead, toNat_bufAddr s.cfg h, locate_bufOffset s.cfg h]

@[simp] theorem State.hostRead_cmd (s : State) : s.hostRead 0x0000 = 0x00 := by simp [State.hostRead, locate]

@[simp] theorem State.hostRead_status (s : State) : s.hostRead 0x0001 = s.statusByte := by simp [State.hostRead, locate]

@[simp] theorem State.hostRead_err (s : State) : s.hostRead 0x0002 = s.err.code := by simp [State.hostRead, locate]

/-- Each register's byte string is as long as the register. -/
theorem State.length_regBytes (s : State) (hw : s.MeeWidths) (r : Reg) : (s.regBytes r).length = r.width s.cfg := by
  cases r <;> simp [State.regBytes, Reg.width, hw.n, hw.e, hw.d, hw.x, hw.y, hw.h]

/-- What a host reads depends on the configuration, STATUS, ERR, the registers, RK and BUF alone. -/
theorem State.hostRead_congr {s t : State} (a : Addr) (hc : t.cfg = s.cfg) (hs : t.statusByte = s.statusByte)
    (he : t.err = s.err) (hr : ∀ r, t.regBytes r = s.regBytes r) (hk : t.rk = s.rk)
    (hb : ∀ off, t.bufByte off = s.bufByte off) : t.hostRead a = s.hostRead a := by
  unfold State.hostRead
  rw [hc]
  cases locate s.cfg a.toNat <;> simp only [hs, he, hr, hb, State.rkBytes, hk]

end Sys2Proof.Machine
end

