-- ==== Sys2Proof/Laws/PerInstr.lean ====
section
/-! SUPPORT. The per-instruction family RoundTrip: the decoder gives back each command from its byte. -/

namespace Sys2Proof.Laws.RoundTrip

/-- The byte of a well-formed command decodes to that command (30_encoding.md R44). -/
def Statement (i : Instr) : Prop := i.wf = true ∧ decode (encode i) = .ok i

theorem nop : Statement .nop := ⟨rfl, rfl⟩
theorem srst : Statement .srst := ⟨rfl, rfl⟩
theorem keyexp : Statement .keyexp := ⟨rfl, rfl⟩
theorem blkenc : Statement .blkenc := ⟨rfl, rfl⟩
theorem blkdec : Statement .blkdec := ⟨rfl, rfl⟩
theorem ecbenc : Statement .ecbenc := ⟨rfl, rfl⟩
theorem ecbdec : Statement .ecbdec := ⟨rfl, rfl⟩
theorem cbcenc : Statement .cbcenc := ⟨rfl, rfl⟩
theorem cbcdec : Statement .cbcdec := ⟨rfl, rfl⟩
theorem ctsenc : Statement .ctsenc := ⟨rfl, rfl⟩
theorem ctsdec : Statement .ctsdec := ⟨rfl, rfl⟩
theorem pkenc : Statement .pkenc := ⟨rfl, rfl⟩
theorem pkdec : Statement .pkdec := ⟨rfl, rfl⟩
theorem pksign : Statement .pksign := ⟨rfl, rfl⟩
theorem pkvfy : Statement .pkvfy := ⟨rfl, rfl⟩

end Sys2Proof.Laws.RoundTrip
end

