-- ==== Sys2Proof/Tests/Slice0.lean ====
section
/-! SUPPORT. The model's own tests: words written out from the encodings, ill-formed terms, vectors of
spec/95_test_vectors.md on one step each, and for every statement with hypotheses a state and operands that meet them. -/

namespace Sys2Proof.Tests

open Sys2Proof.Machine

/-! ### States to test on -/

/-- The smallest device: MEE_BYTES = 128, BUF_BYTES = 32 (00_scope.md R6). -/
def tinyConfig : Config where
  meeBytes := 128
  bufBytes := 32
  mee_min := by decide
  mee_max := by decide
  buf_min := by decide
  buf_max := by decide
  buf_blocks := by decide

/-- It after a hardware reset. -/
def tiny : State := State.afterPowerOn tinyConfig 0

/-- The vectors' key 133457799bbcdff1 with KEYEXP done, and their IV (95_test_vectors.md, notation). -/
def keyed : State :=
  { tiny with
    key := 0x133457799BBCDFF1, rk := keySchedule 0x133457799BBCDFF1, rkvalid := true, iv := 0x0001020304050607 }

/-- `keyed` with SRC, DST and LEN, and with `input` in BUF at SRC. -/
def ready (src dst len : Nat) (input : Bytes) : State :=
  { keyed.memWrite src input with
    src := BitVec.ofNat 16 src, dst := BitVec.ofNat 16 dst, len := BitVec.ofNat 16 len }

/-- The vectors' message, "The quick b" (95_test_vectors.md, notation). -/
def msg11 : Bytes := [0x54, 0x68, 0x65, 0x20, 0x71, 0x75, 0x69, 0x63, 0x6b, 0x20, 0x62]

/-- An MEE register that holds a number. -/
def num (v : Nat) : Bytes := toBE v 128

/-- The small key pair of V9: n = 3233 = 61 · 53, e = 17, d = 2753. -/
def pair (x h : Nat) : State := { tiny with n := num 3233, e := num 17, d := num 2753, x := num x, h := num h }

/-- What `f` reads of the next state, where there is one. -/
def after {α : Type} (o : Host.Outcome State Fault Refusal) (f : State → α) : Option α :=
  match o with
  | .next t => some (f t)
  | .fault _ => none
  | .refused _ => none

/-! ### Decoding: the words of 30_encoding.md R44, bit by bit -/

theorem test_decode_nop : decode 0b00000000 = .ok .nop := by decide
theorem test_decode_srst : decode 0b00000001 = .ok .srst := by decide
theorem test_decode_keyexp : decode 0b00010000 = .ok .keyexp := by decide
theorem test_decode_blkenc : decode 0b00010010 = .ok .blkenc := by decide
theorem test_decode_blkdec : decode 0b00010011 = .ok .blkdec := by decide
theorem test_decode_ecbenc : decode 0b00100000 = .ok .ecbenc := by decide
theorem test_decode_ecbdec : decode 0b00100001 = .ok .ecbdec := by decide
theorem test_decode_cbcenc : decode 0b00100010 = .ok .cbcenc := by decide
theorem test_decode_cbcdec : decode 0b00100011 = .ok .cbcdec := by decide
theorem test_decode_ctsenc : decode 0b00100100 = .ok .ctsenc := by decide
theorem test_decode_ctsdec : decode 0b00100101 = .ok .ctsdec := by decide
theorem test_decode_pkenc : decode 0b00110000 = .ok .pkenc := by decide
theorem test_decode_pkdec : decode 0b00110001 = .ok .pkdec := by decide
theorem test_decode_pksign : decode 0b00110010 = .ok .pksign := by decide
theorem test_decode_pkvfy : decode 0b00110011 = .ok .pkvfy := by decide

/-- The reserved bytes that V11 tries (95_test_vectors.md), each refused by name. -/
theorem test_decode_reserved :
    decode 0x0F = .error (.reservedFunction 0x0F) ∧ decode 0x11 = .error (.reservedFunction 0x11) ∧
    decode 0x14 = .error (.reservedFunction 0x14) ∧ decode 0x26 = .error (.reservedFunction 0x26) ∧
    decode 0x34 = .error (.reservedFunction 0x34) ∧ decode 0x40 = .error (.reservedUnit 0x40) ∧
    decode 0xFF = .error (.reservedUnit 0xFF) := by decide

theorem test_decodeTableWord :
    decodeTableWord 8 0x24 = some .ctsenc ∧ decodeTableWord 8 0x11 = none ∧ decodeTableWord 16 0x24 = none := by decide

/-! ### WellFormed: an ill-formed line for each check of 30_encoding.md R50 -/

theorem test_wf_ld_width : (HostLine.ld .key [0x13]).wf tinyConfig = false := by decide
theorem test_wf_ld_readonly : (HostLine.ld .outlen [0, 0]).wf tinyConfig = false := by decide
theorem test_wf_ldi_register : (HostLine.ldi .y 5).wf tinyConfig = false := by decide
theorem test_wf_ldi_fits : (HostLine.ldi .n (256 ^ 128)).wf tinyConfig = false := by decide +kernel
theorem test_wf_ldt_register : (HostLine.ldt .key [1]).wf tinyConfig = false := by decide
theorem test_wf_ldt_length : (HostLine.ldt .n (zeros 129)).wf tinyConfig = false := by decide +kernel
theorem test_wf_rdt_register : (HostLine.rdt .iv 2 none).wf tinyConfig = false := by decide
theorem test_wf_rdt_length : (HostLine.rdt .y 129 none).wf tinyConfig = false := by decide
theorem test_wf_rdt_want : (HostLine.rdt .y 2 (some [1])).wf tinyConfig = false := by decide
theorem test_wf_ldbuf : (HostLine.ldbuf 31 [1, 2]).wf tinyConfig = false := by decide
theorem test_wf_rd_want : (HostLine.rd .key (some [1])).wf tinyConfig = false := by decide
theorem test_wf_rdrk_want : (HostLine.rdrk 0 (some [1])).wf tinyConfig = false := by decide
theorem test_wf_rdbuf_range : (HostLine.rdbuf 31 2 none).wf tinyConfig = false := by decide
theorem test_wf_rdbuf_want : (HostLine.rdbuf 0 2 (some [1])).wf tinyConfig = false := by decide
theorem test_wf_expectFail : (HostLine.expectFail .none).wf tinyConfig = false := by decide

/-- Source: the encoding of P1 (95_test_vectors.md), the first accesses of its listing. -/
theorem test_expand_ld_and_cmd :
    programEvents Config.default
        [.ld .key [0x13, 0x34, 0x57, 0x79, 0x9B, 0xBC, 0xDF, 0xF1], .rb 0x0001 (some 0x00), .cmd .keyexp, .expectOk] =
      [.write 0x0010 0x13, .write 0x0011 0x34, .write 0x0012 0x57, .write 0x0013 0x79, .write 0x0014 0x9B,
        .write 0x0015 0xBC, .write 0x0016 0xDF, .write 0x0017 0xF1, .read 0x0001, .write 0x0000 0x10,
        .read 0x0001, .read 0x0002] := by decide

/-- Source: the encodings of P3 and P4 (95_test_vectors.md) for MEE_BYTES = 512. -/
theorem test_expand_tails :
    programEvents Config.default [.ldt .n [0x0C, 0xA1], .rdt .y 2 none, .rdbuf 16 1 none] =
      [.write 0x11FE 0x0C, .write 0x11FF 0xA1, .read 0x21FE, .read 0x21FF, .read 0x4010] := by decide

/-! ### The functions: vectors V2, V3, V4, V9 -/

theorem test_permute_example : permute 4 (0b1000 : BitVec 4) [4, 1, 1, 2] = 0b0110 := by decide
theorem test_ip : permute 64 (0x0123456789ABCDEF : Block) tableIP = 0xCC00CCFFF0AAF0AA := by decide +kernel
theorem test_pc2 : permute 48 (0x80000000000000 : BitVec 56) tablePC2 = 0x080000000000 := by decide +kernel
theorem test_sbox : sbox 1 0b011011 = 5 ∧ sbox 8 0b100001 = 2 := by decide
theorem test_sboxLayer : sboxLayer 0x6117BA866527 = 0x5C82B597 := by decide +kernel
theorem test_roundF : roundF 0xF0AAF0AA 0x1B02EFFC7072 = 0x234AA9BB := by decide +kernel
theorem test_rotl28 : rotl28 0xF0CCAAF 1 = 0xE19955F ∧ rotl28 0xC000000 2 = 3 := by decide
theorem test_modExp : modExp 65 17 3233 = 2790 ∧ modExp 0 0 3233 = 1 ∧ modExp 0 0 1 = 0 := by decide +kernel

/-! ### The commands, one step each (95_test_vectors.md V3, V5, V8, V10, V11) -/

/-- V11: NOP after a failure with ERR = 0x03. -/
theorem test_nop : after (exec .nop (keyed.raise .len)) (fun t => (t.statusByte, t.err)) = some (0x02, .none) := by decide

/-- R106's example: STATUS and KEY zero; BUF kept. -/
theorem test_srst :
    after (exec .srst (ready 4 0 3 [7])) (fun t => (t.statusByte, t.key, t.src, t.bufByte 4)) =
      some (0x00, 0, 0, 7) := by decide

/-- V3: `RD RK[0]` gives 1b02effc7072, RK[15] cb3d8b0e17f5, STATUS 0x02. -/
theorem test_keyexp :
    after (exec .keyexp { tiny with key := 0x133457799BBCDFF1 }) (fun t => (t.rk[0], t.rk[15], t.statusByte)) =
      some (0x1B02EFFC7072, 0xCB3D8B0E17F5, 0x02) := by decide +kernel

/-- V1, the source's known-answer vector (V5 row a). -/
theorem test_blkenc :
    after (exec .blkenc { keyed with blkin := 0x0123456789ABCDEF }) (·.blkout) = some 0x85E813540F0AB405 := by
  decide +kernel

/-- V5 row j: no KEYEXP since reset. -/
theorem test_blkenc_nokey :
    after (exec .blkenc { tiny with blkout := 5 }) (fun t => (t.blkout, t.statusByte, t.err)) =
      some (5, 0x01, .nokey) := by decide

/-- V5 row h. -/
theorem test_blkdec :
    after (exec .blkdec { keyed with blkin := 0x0123456789ABCDEF }) (·.blkout) = some 0xEE0F7C12E0B09338 := by
  decide +kernel

/-- V8 row 1: five bytes beyond the input are overwritten. -/
theorem test_ecbenc :
    after (exec .ecbenc (ready 0 0 3 (msg11.take 3))) (fun t => (t.outlen, t.memRead 0 8)) =
      some (0x0008, [0xe0, 0xea, 0x96, 0x19, 0x07, 0xa5, 0x17, 0xea]) := by decide +kernel

/-- V8 row 4 (shortened to a BUF of 32 bytes): the overlap check uses n_out. -/
theorem test_ecbenc_overlap : after (exec .ecbenc (ready 15 0 9 [])) (fun t => (t.err, t.buf)) = some (.overlap, []) := by
  decide

/-- R90's example. -/
theorem test_ecbdec :
    after (exec .ecbdec (ready 0 8 8 [0xe0, 0xea, 0x96, 0x19, 0x07, 0xa5, 0x17, 0xea])) (·.memRead 8 8) =
      some [0x54, 0x68, 0x65, 0, 0, 0, 0, 0] := by decide +kernel

/-- V8 row 8. -/
theorem test_ecbdec_len : after (exec .ecbdec (ready 0 0 9 [])) (·.err) = some .len := by decide

/-- V8 row 10's first block. -/
theorem test_cbcenc :
    after (exec .cbcenc (ready 0 0 8 (msg11.take 8))) (·.memRead 0 8) =
      some [0xac, 0xaa, 0x69, 0xf2, 0xaa, 0x53, 0x61, 0x14] := by decide +kernel

/-- V8 row 30's order, on a BUF of 32 bytes: E_BOUNDS over E_OVERLAP. -/
theorem test_cbcenc_bounds : after (exec .cbcenc (ready 24 28 16 [])) (·.err) = some .bounds := by decide

/-- V8 row 14: in place, the second block is xored with the old ciphertext block. -/
theorem test_cbcdec :
    after (exec .cbcdec (ready 0 0 16 [0xac, 0xaa, 0x69, 0xf2, 0xaa, 0x53, 0x61, 0x14, 0xeb, 0x0f, 0xb5, 0xf4, 0xe0, 0xe5,
      0xd8, 0x1f])) (·.memRead 8 8) = some [0x6b, 0x20, 0x62, 0x72, 0x6f, 0x77, 0x6e, 0x20] := by decide +kernel

/-- V8 row 29: E_LEN over E_OVERLAP. -/
theorem test_cbcdec_len : after (exec .cbcdec (ready 0 4 12 [])) (·.err) = some .len := by decide

/-- V8 row 25 (V7, n = 11): adjacent ranges are disjoint. -/
theorem test_ctsenc :
    after (exec .ctsenc (ready 0 11 11 msg11)) (fun t => (t.outlen, t.memRead 11 11)) =
      some (0x000B, [0x41, 0xae, 0x3e, 0x9d, 0xcb, 0x8b, 0x7b, 0x97, 0xac, 0xaa, 0x69]) := by decide +kernel

/-- V8 row 28: E_NOKEY over E_LEN over E_BOUNDS. -/
theorem test_ctsenc_nokey :
    after (exec .ctsenc { tiny with src := 0xFFFF, len := 3 }) (fun t => (t.statusByte, t.err)) = some (0x01, .nokey) := by
  decide

/-- P2's second command: decryption in place. -/
theorem test_ctsdec :
    after (exec .ctsdec (ready 16 16 11 [0x41, 0xae, 0x3e, 0x9d, 0xcb, 0x8b, 0x7b, 0x97, 0xac, 0xaa, 0x69]))
      (·.memRead 16 11) = some msg11 := by decide +kernel

/-- V8 row 20: 65535 + 65535 is not wrapped. -/
theorem test_ctsdec_bounds :
    after (exec .ctsdec { keyed with src := 0xFFFF, len := 0xFFFF }) (·.err) = some .bounds := by decide

/-- V10 row 1. -/
theorem test_pkenc : after (exec .pkenc (pair 65 0)) (fun t => (BE t.y, t.statusByte)) = some (2790, 0x00) := by
  decide +kernel

/-- V10 row 8: X = N. -/
theorem test_pkenc_range :
    after (exec .pkenc (pair 3233 0)) (fun t => (BE t.y, t.statusByte, t.err)) = some (0, 0x01, .range) := by
  decide +kernel

/-- V10 row 2. -/
theorem test_pkdec : after (exec .pkdec (pair 2790 0)) (BE ·.y) = some 65 := by decide +kernel

/-- V10 row 13: D never loaded. -/
theorem test_pkdec_zero : after (exec .pkdec { pair 65 0 with d := num 0 }) (BE ·.y) = some 1 := by decide +kernel

/-- V10 row 3. -/
theorem test_pksign : after (exec .pksign (pair 123 0)) (BE ·.y) = some 2746 := by decide +kernel

/-- V10 rows 4 and 6: a match, also for s ≥ n. -/
theorem test_pkvfy :
    after (exec .pkvfy (pair 2746 123)) (fun t => (BE t.y, t.statusByte)) = some (123, 0x04) ∧
    after (exec .pkvfy (pair 5979 123)) (fun t => (BE t.y, t.statusByte)) = some (123, 0x04) := by decide +kernel

/-- V10 row 5: a mismatch is a success with VOK = 0. -/
theorem test_pkvfy_mismatch :
    after (exec .pkvfy (pair 2746 122)) (fun t => (BE t.y, t.statusByte, t.err)) = some (123, 0x00, .none) := by
  decide +kernel

/-! ### Host accesses (95_test_vectors.md V11) -/

/-- `RB 0x0043` and `RB 0x0046` after V3's KEYEXP. -/
theorem test_read_rk : keyed.hostRead 0x0043 = 0xFC ∧ keyed.hostRead 0x0046 = 0x79 := by decide +kernel

/-- `WB 0x0010, 0x13` where KEY[0] is 0x13 already: RKVALID and RK cleared, KEY the same. -/
theorem test_write_key :
    after (hostWrite 0x0010 0x13 keyed) (fun t => (t.key, t.rkvalid, t.rk)) =
      some (0x133457799BBCDFF1, false, Vector.replicate 16 0) := by decide +kernel

/-- `WB 0x0000, 0x02`: E_ILLCMD, RKVALID kept. -/
theorem test_write_reserved_command :
    after (hostWrite 0x0000 0x02 keyed) (fun t => (t.statusByte, t.err)) = some (0x03, .illcmd) := by decide

/-- V11: the addresses just past N and BUF, and the last of BUF, for MEE_BYTES = 512 and BUF_BYTES = 4096. -/
theorem test_address_map :
    locate Config.default 0x1200 = .reserved ∧ locate Config.default 0x5000 = .reserved ∧
    locate Config.default 0x4FFF = .buf 0xFFF ∧ locate Config.default 0x0003 = .reserved := by decide

/-- A command as the first step after reset: PKENC with no modulus (V10 row 10), through the fetch word. -/
theorem test_first_step :
    after (step (State.reset.withFetchWord 8 0x30)) (fun t => (t.statusByte, t.err)) = some (0x01, .range) := by
  decide +kernel

/-! ### Witnesses: the hypotheses of the statements -/

theorem tiny_meeWidths : tiny.MeeWidths := ⟨rfl, rfl, rfl, rfl, rfl, rfl⟩

theorem pair_meeWidths (x h : Nat) : (pair x h).MeeWidths := by
  constructor <;> first | exact length_toBE _ _ | rfl

/-- `keyed` with a command pending satisfies the invariant. -/
theorem keyed_inv (evs : List HostEvent) : ({ keyed with pending := evs } : State).Inv where
  widths := ⟨rfl, rfl, rfl, rfl, rfl, rfl⟩
  roundKeys := ⟨fun _ => rfl, fun h => by cases h⟩
  status := by
    have h : keyed.StatusConsistent := ⟨by decide, by decide⟩
    exact ⟨h.errf, h.vok⟩
  buf := ⟨List.Pairwise.nil, fun _ h => by cases h⟩
  outlen := by
    have h : keyed.OutlenFits := by decide
    exact h

theorem witness_DecodeAndEncodeAgree : Instr.ctsdec.wf = true := by decide

theorem witness_StepRunsTheIssuedCommand :
    Instr.blkenc.wf = true ∧ decode 0x12 = .ok .blkenc ∧
      ({ keyed with pending := [.write 0 0x12, .read 0x0028] } : State).pending = .write 0x0000 0x12 :: [.read 0x0028] := by
  decide

theorem witness_ReservedBytesRaiseIllcmd :
    ∀ c ∈ [0x02, 0x0F, 0x11, 0x14, 0x1F, 0x26, 0x2F, 0x34, 0xFF], ReservedByte (BitVec.ofNat 8 c) := by decide

theorem witness_ParametersNeverChange :
    ∃ t, step { keyed with pending := [.write 0x0000 0x01] } = .next t := ⟨_, rfl⟩

theorem witness_WideWriteIssuesTheCommandFirst :
    ({ keyed with pending := writeRun 0x0000 [0x10, 0, 0] } : State).pending = writeRun 0x0000 (0x10 :: [0, 0]) := rfl

theorem witness_HostReadReturnsTheMappedByte :
    127 < Reg.width tiny.cfg .h ∧ 1 < Reg.width tiny.cfg .outlen ∧ (5 < 6) ∧ 31 < tiny.cfg.bufBytes ∧
      ∀ a ∈ [0x0003, 0x000C, 0x003F, 0x00A0, 0x0FFF, 0x1080, 0x13FF, 0x2480, 0x3FFF, 0x4020, 0xFFFF],
        ReservedAddress tiny.cfg (BitVec.ofNat 16 a).toNat := by decide

theorem witness_ReadsHaveNoSideEffect :
    ({ keyed with pending := [.read 0x0010] } : State).pending = .read 0x0010 :: [] := rfl

theorem witness_PlainWriteStoresOneByte :
    tiny.MeeWidths ∧ ∀ a ∈ [0x0004, 0x0009, 0x0018, 0x0027, 0x1000, 0x107F, 0x1480 - 1, 0x1800, 0x1C7F, 0x247F, 0x4000, 0x401F],
      PlainWritable tiny.cfg (BitVec.ofNat 16 a).toNat := ⟨tiny_meeWidths, by decide⟩

theorem witness_KeyWriteDropsTheRoundKeys : (0 < 8) ∧ (7 < 8) := by decide

theorem witness_ReservedAndReadOnlyIgnoreWrites :
    (∀ a ∈ [0x0003, 0x0030, 0x2080, 0x27FF, 0x4020], ReservedAddress tiny.cfg (BitVec.ofNat 16 a).toNat) ∧
    (∀ a ∈ [0x0001, 0x0002, 0x000A, 0x000B, 0x0028, 0x002F, 0x0040, 0x009F, 0x2000, 0x207F],
      ReadOnlyAddress tiny.cfg (BitVec.ofNat 16 a).toNat) := by decide

theorem witness_LdLoadsTheWholeRegister :
    tiny.MeeWidths ∧ (HostLine.ld .key [1, 2, 3, 4, 5, 6, 7, 8]).wf tiny.cfg = true ∧ tiny.pending = [] :=
  ⟨tiny_meeWidths, by decide, rfl⟩

theorem witness_EveryStepKeepsInv :
    ∃ s t : State, s.Inv ∧ s.rkvalid = true ∧ step s = .next t :=
  ⟨{ keyed with pending := [.write 0x0000 0x12] }, _, keyed_inv _, rfl, rfl⟩

theorem witness_ReachableStatesKeepRoundKeysAndStatus :
    ∃ t, Sys2Proof.core.run 1 { State.afterPowerOn tinyConfig 0 with pending := [.write 0x0000 0x10] } = .next t :=
  ⟨_, rfl⟩

theorem witness_FailureChangesTheStatusOnly :
    (∃ t, exec .blkenc tiny = .next t ∧ t.errf = true) ∧ ∃ t, hostWrite 0x0000 0x11 tiny = .next t ∧ t.errf = true :=
  ⟨⟨_, rfl, rfl⟩, _, rfl, rfl⟩

theorem witness_SuccessClearsTheRecord :
    ∃ t, exec .nop tiny = .next t ∧ t.errf = false := ⟨_, rfl, rfl⟩

/-- With V10 row 4 the right side of the VOK clause holds, with row 5 it fails. -/
theorem witness_SuccessClearsTheRecord_vok :
    BE (pair 2746 123).n ≠ 0 ∧ after (exec .pkvfy (pair 2746 123)) (·.vok) = some true ∧
      after (exec .pkvfy (pair 2746 122)) (·.vok) = some false := by decide +kernel

theorem witness_SoftResetKeepsBufOnly : Instr.keyexp ≠ .srst ∧ ∃ t, exec .keyexp tiny = .next t := ⟨by decide, _, rfl⟩

theorem witness_HardwareResetAgreesWithSoftReset :
    ({ keyed with pending := [.hardReset] } : State).pending = .hardReset :: [] := rfl

/-- KEYEXP sets RKVALID; a KEY write, SRST and a hardware reset clear it. -/
theorem witness_OnlyKeyEventsChangeTheRoundKeys :
    (∃ t, tiny.rkvalid = false ∧ step { tiny with pending := [.write 0x0000 0x10] } = .next t ∧ t.rkvalid = true) ∧
    (∃ t, keyed.rkvalid = true ∧ step { keyed with pending := [.write 0x0017 0xF1] } = .next t ∧ t.rkvalid = false) ∧
    (∃ t, keyed.rkvalid = true ∧ step { keyed with pending := [.write 0x0000 0x01] } = .next t ∧ t.rkvalid = false) ∧
    (∃ t, keyed.rkvalid = true ∧ step { keyed with pending := [.hardReset] } = .next t ∧ t.rkvalid = false) :=
  ⟨⟨_, rfl, rfl, rfl⟩, ⟨_, rfl, rfl, rfl⟩, ⟨_, rfl, rfl, rfl⟩, ⟨_, rfl, rfl, rfl⟩⟩

theorem witness_CommandsIgnoreTheHostsQueue : ∃ t, exec .ctsenc keyed = .next t := ⟨_, rfl⟩

/-- Two states that agree in the MEE registers and in little else. -/
theorem witness_PkCommandsDependOnMeeRegistersOnly :
    Instr.pksign ∈ [Instr.pkenc, .pkdec, .pksign, .pkvfy] ∧ tiny.cfg = keyed.cfg ∧ tiny.n = keyed.n ∧
      tiny.e = keyed.e ∧ tiny.d = keyed.d ∧ tiny.x = keyed.x ∧ tiny.y = keyed.y ∧ tiny.h = keyed.h ∧
      tiny.rkvalid ≠ keyed.rkvalid ∧ (∃ t, exec .pksign tiny = .next t) ∧ ∃ t, exec .pksign keyed = .next t :=
  ⟨by decide, rfl, rfl, rfl, rfl, rfl, rfl, rfl, by decide, ⟨_, rfl⟩, _, rfl⟩

theorem witness_PermutePlacesEachTableBit : (∀ p ∈ tableE, 1 ≤ p ∧ p ≤ 32) ∧ 47 < tableE.length := by decide

theorem witness_SboxLayerUsesBoxKForGroupK : (1 ≤ 1 ∧ 1 ≤ 8) ∧ (1 ≤ 8 ∧ 8 ≤ 8) := by decide

theorem witness_RotationsReturnEachHalf : (1 ≤ 1 ∧ 1 ≤ 2 ∧ 27 < 28) ∧ (1 ≤ 2 ∧ 2 ≤ 2 ∧ 0 < 28) := by decide

/-- Both branches of the statement: a position of the C half and one of the D half. -/
theorem witness_SubkeyBitsComeFromTheKey :
    (0 < 48) ∧ tablePC2.getD 0 0 - 1 < 28 ∧ (47 < 48) ∧ ¬ tablePC2.getD 47 0 - 1 < 28 := by decide

theorem witness_KeyScheduleIgnoresParity :
    (0x133457799BBCDFF1 : Block) ≠ 0x123456789ABCDEF0 ∧
      (0x133457799BBCDFF1 : Block) &&& 0xFEFEFEFEFEFEFEFE = 0x123456789ABCDEF0 &&& 0xFEFEFEFEFEFEFEFE := by decide

theorem witness_BlkencEncryptsBlkin : keyed.rkvalid = true ∧ tiny.rkvalid = false := by decide

theorem witness_BlkdecDecryptsBlkin : keyed.rkvalid = true ∧ tiny.rkvalid = false := by decide

theorem witness_BlockCommandsUndoEachOther : keyed.rkvalid = true := by decide

theorem witness_EcbEncWorksBlockwise : 1 ≤ msg11.length ∧ 1 < (msg11.length + 7) / 8 := by decide

theorem witness_EcbDecKeepsThePadding : 1 ≤ (msg11.take 8).length ∧ (msg11.take 8).length % 8 = 0 ∧ 1 ≤ msg11.length := by
  decide

/-- Two whole blocks: the first chained on the IV, the second on a block. -/
theorem witness_CbcEncChainsOnCiphertext :
    (keyed.regBytes .iv).length = 8 ∧ (zeros 16).length % 8 = 0 ∧ 1 < (zeros 16).length / 8 := by decide +kernel

theorem witness_CbcDecChainsOnInput :
    (keyed.regBytes .iv).length = 8 ∧ (zeros 16).length % 8 = 0 ∧ 1 < (zeros 16).length / 8 := by decide +kernel

/-- Whole blocks, one whole block before the short one (m = 2), and two (m = 3). -/
theorem witness_CtsEncStealsCiphertext :
    (keyed.regBytes .iv).length = 8 ∧ (8 ≤ (zeros 8).length ∧ (zeros 8).length % 8 = 0) ∧
      (8 ≤ msg11.length ∧ msg11.length % 8 ≠ 0 ∧ (msg11.length + 7) / 8 = 2) ∧
      (8 ≤ (zeros 19).length ∧ (zeros 19).length % 8 ≠ 0 ∧ ((zeros 19).length + 7) / 8 = 3) := by decide +kernel

theorem witness_CtsDecRebuildsTheStolenBlock :
    (keyed.regBytes .iv).length = 8 ∧ (8 ≤ (zeros 8).length ∧ (zeros 8).length % 8 = 0) ∧
      (8 ≤ msg11.length ∧ msg11.length % 8 ≠ 0 ∧ (msg11.length + 7) / 8 = 2) ∧
      (8 ≤ (zeros 19).length ∧ (zeros 19).length % 8 ≠ 0 ∧ ((zeros 19).length + 7) / 8 = 3) := by decide +kernel

theorem witness_CbcModesAreInverse : (keyed.regBytes .iv).length = 8 ∧ (zeros 16).length % 8 = 0 := by decide +kernel

theorem witness_CtsModesAreInverse : (keyed.regBytes .iv).length = 8 ∧ 8 ≤ msg11.length := by decide +kernel

/-- The clauses of a CMC command's statement, each at a boundary of BUF_BYTES = 32: no key; a length refused; input or
output one byte past the end; ranges that meet; ranges accepted, in place to the last byte and apart. -/
theorem witness_EcbencWritesThePaddedBlocks :
    tiny.rkvalid = false ∧ (keyed.rkvalid = true ∧ keyed.len.toNat = 0) ∧
    (¬ (ready 8 8 25 []).len.toNat = 0 ∧ 32 < (ready 8 8 25 []).dst.toNat + 8 * (((ready 8 8 25 []).len.toNat + 7) / 8)) ∧
    ((ready 15 0 9 []).src ≠ (ready 15 0 9 []).dst ∧ (ready 15 0 9 []).src.toNat < 0 + 8 * ((9 + 7) / 8) ∧
      (ready 15 0 9 []).dst.toNat < 15 + 9) ∧
    (ready 0 0 25 []).rkvalid = true ∧ ¬ (ready 0 0 25 []).len.toNat = 0 ∧ (ready 0 0 25 []).RangesAccepted 25 32 :=
  ⟨rfl, by decide, by decide, by decide, rfl, by decide, ⟨by decide, by decide, by decide⟩⟩

/-- The ranges of the five commands whose output is as long as the input, each clause at a boundary. -/
theorem ready_clauses :
    tiny.rkvalid = false ∧
    (32 < (ready 17 0 16 []).src.toNat + 16 ∧ 32 < (ready 0 17 16 []).dst.toNat + 16) ∧
    ((ready 0 15 16 []).src ≠ (ready 0 15 16 []).dst ∧ (ready 0 15 16 []).src.toNat < 15 + 16 ∧
      (ready 0 15 16 []).dst.toNat < 0 + 16) ∧
    (ready 0 16 16 []).rkvalid = true ∧ (ready 0 16 16 []).RangesAccepted 16 16 ∧
    (ready 16 16 16 []).RangesAccepted 16 16 :=
  ⟨rfl, by decide, by decide, rfl, ⟨by decide, by decide, by decide⟩, ⟨by decide, by decide, by decide⟩⟩

theorem witness_EcbdecWritesTheDecryptedBlocks :
    ((ready 0 0 0 []).len.toNat = 0 ∧ (ready 0 0 9 []).len.toNat % 8 ≠ 0) ∧
      ¬ ((ready 0 16 16 []).len.toNat = 0 ∨ (ready 0 16 16 []).len.toNat % 8 ≠ 0) ∧
      (ready 0 16 16 []).RangesAccepted (ready 0 16 16 []).len.toNat (ready 0 16 16 []).len.toNat :=
  ⟨by decide, by decide, ready_clauses.2.2.2.2.1⟩

theorem witness_CbcencWritesTheChainedBlocks :
    ((ready 0 0 0 []).len.toNat = 0 ∧ (ready 0 0 15 []).len.toNat % 8 ≠ 0) ∧
      ¬ ((ready 16 16 16 []).len.toNat = 0 ∨ (ready 16 16 16 []).len.toNat % 8 ≠ 0) ∧
      (ready 16 16 16 []).RangesAccepted (ready 16 16 16 []).len.toNat (ready 16 16 16 []).len.toNat :=
  ⟨by decide, by decide, ready_clauses.2.2.2.2.2⟩

theorem witness_CbcdecWritesTheUnchainedBlocks :
    ((ready 0 0 0 []).len.toNat = 0 ∧ (ready 0 4 12 []).len.toNat % 8 ≠ 0) ∧
      ¬ ((ready 0 16 16 []).len.toNat = 0 ∨ (ready 0 16 16 []).len.toNat % 8 ≠ 0) ∧
      (ready 0 16 16 []).RangesAccepted (ready 0 16 16 []).len.toNat (ready 0 16 16 []).len.toNat :=
  ⟨by decide, by decide, ready_clauses.2.2.2.2.1⟩

theorem witness_CtsencWritesAsManyBytes :
    (ready 0 0 7 []).len.toNat < 8 ∧ ¬ (ready 0 16 16 []).len.toNat < 8 ∧
      (ready 0 16 16 []).RangesAccepted (ready 0 16 16 []).len.toNat (ready 0 16 16 []).len.toNat :=
  ⟨by decide, by decide, ready_clauses.2.2.2.2.1⟩

theorem witness_CtsdecWritesAsManyBytes :
    (ready 0 0 7 []).len.toNat < 8 ∧ ¬ (ready 16 16 16 []).len.toNat < 8 ∧
      (ready 16 16 16 []).RangesAccepted (ready 16 16 16 []).len.toNat (ready 16 16 16 []).len.toNat :=
  ⟨by decide, by decide, ready_clauses.2.2.2.2.2⟩

theorem witness_CtsOnWholeBlocksIsCbc : (ready 0 16 16 []).len.toNat % 8 = 0 := by decide

theorem witness_CtsCommandsRoundTripInPlace :
    (ready 21 21 11 msg11).rkvalid = true ∧ 8 ≤ (ready 21 21 11 msg11).len.toNat ∧
      (ready 21 21 11 msg11).src = (ready 21 21 11 msg11).dst ∧
      (ready 21 21 11 msg11).src.toNat + (ready 21 21 11 msg11).len.toNat ≤ (ready 21 21 11 msg11).cfg.bufBytes := by decide

theorem witness_ModExpIsThePowerModulo : 1 ≤ 1 ∧ 1 ≤ 3233 := by decide

/-- E_RANGE at X = N and at N = 0; success at X = N - 1. -/
theorem witness_PkencComputesThePower :
    (pair 3233 0).MeeWidths ∧ BE (pair 3233 0).n ≤ BE (pair 3233 0).x ∧ BE tiny.n = 0 ∧ BE (pair 3232 0).n ≠ 0 ∧
      BE (pair 3232 0).x < BE (pair 3232 0).n :=
  ⟨pair_meeWidths _ _, by decide +kernel, by decide +kernel, by decide +kernel, by decide +kernel⟩

theorem witness_PkdecAndPksignUseD :
    (pair 3233 0).MeeWidths ∧ BE (pair 3233 0).n ≤ BE (pair 3233 0).x ∧ BE tiny.n = 0 ∧ BE (pair 3232 0).n ≠ 0 ∧
      BE (pair 3232 0).x < BE (pair 3232 0).n :=
  witness_PkencComputesThePower

theorem witness_PkvfyComparesWithH :
    tiny.MeeWidths ∧ BE tiny.n = 0 ∧ (pair 5979 123).MeeWidths ∧ BE (pair 5979 123).n ≠ 0 :=
  ⟨tiny_meeWidths, by decide +kernel, pair_meeWidths _ _, by decide +kernel⟩

theorem witness_ModExpIsMultiplicative : 1 ≤ 3233 := by decide

/-- V9's key pair. -/
theorem witness_PublicKeyRoundTrips :
    (pair 65 0).MeeWidths ∧ Nat.Prime 61 ∧ Nat.Prime 53 ∧ 61 ≠ 53 ∧ BE (pair 65 0).n = 61 * 53 ∧
      1 < BE (pair 65 0).e ∧ BE (pair 65 0).e < (61 - 1) * (53 - 1) ∧
      (BE (pair 65 0).e).gcd ((61 - 1) * (53 - 1)) = 1 ∧ BE (pair 65 0).d < (61 - 1) * (53 - 1) ∧
      BE (pair 65 0).e * BE (pair 65 0).d % ((61 - 1) * (53 - 1)) = 1 ∧ BE (pair 65 0).x < BE (pair 65 0).n :=
  ⟨pair_meeWidths _ _, by norm_num, by norm_num, by decide, by decide +kernel, by decide +kernel, by decide +kernel,
    by decide +kernel, by decide +kernel, by decide +kernel, by decide +kernel⟩

end Sys2Proof.Tests
end

section
/-! The host's side of the state and the commands: no command reads or writes `pending` and `replies`. Each operation the
commands share commutes with putting a queue and replies in place, and so does every command. -/

namespace Sys2Proof.Machine

/-- The same device with another host beside it: what it will do next and what it has read. -/
def State.withHost (s : State) (p : List HostEvent) (r : List Byte) : State :=
  { s with pending := p, replies := r }

variable (s : State) (p : List HostEvent) (r : List Byte)

/-! ### The shared updates -/

theorem State.raise_withHost (c : ErrCode) : (s.withHost p r).raise c = (s.raise c).withHost p r := rfl

theorem State.succeed_withHost : (s.withHost p r).succeed = s.succeed.withHost p r := rfl

theorem State.clearRegisters_withHost : (s.withHost p r).clearRegisters = s.clearRegisters.withHost p r := rfl

/-- The checks of a CMC command read RKVALID, SRC, DST, LEN and the configuration, none of them the host's. -/
theorem State.cmcChecks_withHost (m : CmcMode) (dir : CmcDir) :
    (s.withHost p r).cmcChecks m dir = s.cmcChecks m dir := rfl

/-! ### The command templates -/

theorem State.blockCommand_withHost (cipher : Block → RoundKeys → Block) :
    (s.withHost p r).blockCommand cipher = (s.blockCommand cipher).withHost p r := by
  simp only [State.blockCommand, apply_ite (State.withHost · p r)]
  rfl

theorem State.cmcCommand_withHost (m : CmcMode) (dir : CmcDir) (f : Bytes → Bytes) :
    (s.withHost p r).cmcCommand m dir f = (s.cmcCommand m dir f).withHost p r := by
  unfold State.cmcCommand
  rw [s.cmcChecks_withHost]
  cases s.cmcChecks m dir with
  | error c => exact s.raise_withHost p r c
  | ok ranges => rfl

theorem State.pkCommand_withHost (exponent : Bytes) :
    (s.withHost p r).pkCommand exponent = (s.pkCommand exponent).withHost p r := by
  simp only [State.pkCommand, apply_ite (State.withHost · p r)]
  rfl

theorem State.pkVerify_withHost : (s.withHost p r).pkVerify = s.pkVerify.withHost p r := by
  simp only [State.pkVerify, apply_ite (State.withHost · p r)]
  rfl

/-! ### The commands -/

/-- A command's result beside another host is its result, beside that host. -/
theorem exec_withHost {i : Instr} {t : State} (h : exec i s = .next t) :
    exec i (s.withHost p r) = .next (t.withHost p r) := by
  cases i <;> (injection h with h; subst h; refine congrArg Host.Outcome.next ?_)
  case nop => exact s.succeed_withHost p r
  case srst => exact s.clearRegisters_withHost p r
  case keyexp => exact State.succeed_withHost { s with rk := keySchedule s.key, rkvalid := true } p r
  case blkenc | blkdec => exact s.blockCommand_withHost p r _
  case ecbenc | ecbdec | cbcenc | cbcdec | ctsenc | ctsdec => exact s.cmcCommand_withHost p r _ _ _
  case pkenc | pkdec | pksign => exact s.pkCommand_withHost p r _
  case pkvfy => exact s.pkVerify_withHost p r

end Sys2Proof.Machine
end

section
open Sys2Proof.Machine

/-- Settles O23: every command commutes with replacing the host's queue and replies. -/
theorem commandsIgnoreTheHostsQueue : Obligations.CommandsIgnoreTheHostsQueue := by
  unfold Obligations.CommandsIgnoreTheHostsQueue
  intro i s t p r h
  exact exec_withHost s p r h

end

section
/-! Host events and the invariant. What one host event can do is said once (`EventEffect`, beside `ExecEffect` for the
commands). Each part of the invariant is then kept by every command and by every event, and an induction over the steps
carries the whole of it to every reachable state. -/

namespace Sys2Proof.Machine

variable {s t : State} {ev : HostEvent} {i : Instr}

/-! ### What an event and a step can do -/

/-- What the host event can make of `s`, everything it writes and everything it leaves. -/
inductive EventEffect (s : State) : HostEvent → State → Prop
  | read (a : Addr) : EventEffect s (.read a) { s with replies := s.replies ++ [s.hostRead a] }
  | command (b : Byte) {i : Instr} {t : State} (hd : decode b = .ok i) (he : ExecEffect s i t) :
    EventEffect s (.write 0x0000 b) t
  | reserved (b : Byte) {e : DecodeReject} (hd : decode b = .error e) :
    EventEffect s (.write 0x0000 b) (s.raise .illcmd)
  /-- A byte of a writable register other than KEY. -/
  | register {a : Addr} (b : Byte) {r : Reg} {j : Nat} (hl : locate s.cfg a.toNat = .reg r j)
    (hw : r.hostWritable = true) (hk : r ≠ .key) :
    EventEffect s (.write a b) (s.putReg r ((s.regBytes r).set j b))
  | key {a : Addr} (b : Byte) {j : Nat} (hl : locate s.cfg a.toNat = .reg .key j) :
    EventEffect s (.write a b) (s.putReg .key ((s.regBytes .key).set j b)).dropRoundKeys
  | buf {a : Addr} (b : Byte) {off : Nat} (hl : locate s.cfg a.toNat = .buf off) :
    EventEffect s (.write a b) (s.memWrite off [b])
  /-- A write to a read-only or reserved address. -/
  | ignored (a : Addr) (b : Byte) : EventEffect s (.write a b) s
  | hardReset : EventEffect s .hardReset s.hardwareReset

theorem EventEffect.of_storeByte (s : State) (a : Addr) (b : Byte) :
    EventEffect s (.write a b) (s.storeByte a b) := by
  rcases s.storeByte_cases a b with ⟨r, j, hl, hw, hk, h⟩ | ⟨j, hl, h⟩ | ⟨off, hl, h⟩ | h
  · rw [h]; exact .register b hl hw hk
  · rw [h]; exact .key b hl
  · rw [h]; exact .buf b hl
  · rw [h]; exact .ignored a b

theorem EventEffect.of_issueCommand {b : Byte} (h : issueCommand b s = .next t) :
    EventEffect s (.write 0x0000 b) t := by
  rcases issueCommand_cases b s with ⟨i, hd, hi⟩ | ⟨e, hd, hi⟩
  · exact .command b hd (exec_effect (hi.symm.trans h))
  · obtain rfl : s.raise .illcmd = t := by simpa using hi.symm.trans h
    exact .reserved b hd

/-- Every outcome of a host event is one of those effects. -/
theorem hostEvent_effect (h : hostEvent ev s = .next t) : EventEffect s ev t := by
  cases ev with
  | read a =>
    injection h with h
    exact h ▸ .read a
  | write a b =>
    rcases hostWrite_cases a b s with ⟨hl, hw⟩ | ⟨-, hw⟩
    · obtain rfl : a = 0x0000 := BitVec.eq_of_toNat_eq (locate_cmd hl)
      exact .of_issueCommand (hw.symm.trans h)
    · obtain rfl : s.storeByte a b = t := by simpa using hw.symm.trans h
      exact .of_storeByte s a b
  | hardReset =>
    injection h with h
    exact h ▸ .hardReset

/-- A step with an event pending has that event's effect on the state it is taken from. -/
theorem step_effect_of_pending {rest : List HostEvent} (hp : s.pending = ev :: rest) (h : step s = .next t) :
    EventEffect { s with pending := rest } ev t := by
  refine hostEvent_effect ?_
  rwa [step, hostStep, hp] at h

/-- A step changes nothing, or has the effect of the first pending event. -/
theorem step_effect (h : step s = .next t) :
    t = s ∨ ∃ ev rest, EventEffect { s with pending := rest } ev t := by
  rcases step_cases s with ⟨-, hs⟩ | ⟨ev, rest, hp, -⟩
  · exact .inl (by simpa using h.symm.trans hs)
  · exact .inr ⟨ev, rest, step_effect_of_pending hp h⟩

/-! ### The configuration -/

theorem ExecEffect.cfg_eq (h : ExecEffect s i t) : t.cfg = s.cfg := by
  cases h <;> rfl

theorem EventEffect.cfg_eq (h : EventEffect s ev t) : t.cfg = s.cfg := by
  cases h with
  | command _ _ he => exact he.cfg_eq
  | register => exact s.putReg_cfg _ _
  | _ => rfl

/-! ### Register widths (10_state.md R22) -/

/-- The MEE registers have their width exactly when every register has. -/
theorem State.meeWidths_iff : s.MeeWidths ↔ ∀ r, (s.regBytes r).length = r.width s.cfg :=
  ⟨s.length_regBytes, fun h => ⟨h .n, h .e, h .d, h .x, h .y, h .h⟩⟩

theorem State.MeeWidths.putReg (hs : s.MeeWidths) {r : Reg} {v : Bytes} (hv : v.length = r.width s.cfg) :
    (s.putReg r v).MeeWidths := by
  rw [State.meeWidths_iff, State.putReg_cfg]
  intro q
  by_cases hq : q = r
  · rw [hq, s.regBytes_putReg_same r v hv, hv]
  · rw [s.regBytes_putReg_other v hq, s.length_regBytes hs q]

/-- A byte written into a register does not change the register's width. -/
theorem State.MeeWidths.putReg_set (hs : s.MeeWidths) (r : Reg) (j : Nat) (b : Byte) :
    (s.putReg r ((s.regBytes r).set j b)).MeeWidths :=
  hs.putReg (by rw [List.length_set, s.length_regBytes hs r])

theorem ExecEffect.meeWidths (h : ExecEffect s i t) (hs : s.MeeWidths) : t.MeeWidths := by
  obtain ⟨hn, he, hd, hx, hy, hh⟩ := hs
  cases h with
  | srst => constructor <;> exact length_zeros _
  | pkenc | pkdec | pksign | pkvfy => exact ⟨hn, he, hd, hx, length_toBE _ _, hh⟩
  | _ => exact ⟨hn, he, hd, hx, hy, hh⟩

theorem EventEffect.meeWidths (h : EventEffect s ev t) (hs : s.MeeWidths) : t.MeeWidths := by
  cases h with
  | command _ _ he => exact he.meeWidths hs
  | register => exact hs.putReg_set _ _ _
  | @key _ b j =>
    obtain ⟨hn, he, hd, hx, hy, hh⟩ := hs.putReg_set .key j b
    exact ⟨hn, he, hd, hx, hy, hh⟩
  | hardReset => constructor <;> exact length_zeros _
  | _ => exact ⟨hs.n, hs.e, hs.d, hs.x, hs.y, hs.h⟩

/-! ### Round keys (10_state.md R21) -/

theorem State.RoundKeysCurrent.of_dropped (hv : s.rkvalid = false) (hk : s.rk = Vector.replicate 16 0) :
    s.RoundKeysCurrent :=
  ⟨fun h => absurd (h.symm.trans hv) (by decide), fun _ j => by simp [hk]⟩

theorem ExecEffect.roundKeysCurrent (h : ExecEffect s i t) (hs : s.RoundKeysCurrent) : t.RoundKeysCurrent := by
  cases h with
  | srst => exact .of_dropped rfl rfl
  | keyexp => exact ⟨fun _ => rfl, fun h => nomatch h⟩
  | _ => exact ⟨hs.valid, hs.invalid⟩

theorem State.putReg_key (s : State) {r : Reg} (v : Bytes) (h : r ≠ .key) : (s.putReg r v).key = s.key := by
  cases r with
  | key => exact absurd rfl h
  | _ => rfl

theorem EventEffect.roundKeysCurrent (h : EventEffect s ev t) (hs : s.RoundKeysCurrent) : t.RoundKeysCurrent := by
  cases h with
  | command _ _ he => exact he.roundKeysCurrent hs
  | register _ _ _ hk =>
    constructor
    · simpa [s.putReg_key _ hk] using hs.valid
    · simpa using hs.invalid
  | key | hardReset => exact .of_dropped rfl rfl
  | _ => exact ⟨hs.valid, hs.invalid⟩

/-! ### ERRF, ERR and VOK (10_state.md R15, R16) -/

theorem ErrCode.code_eq_zero_iff (c : ErrCode) : c.code = 0x00 ↔ c = .none := by
  cases c <;> decide

theorem State.StatusConsistent.of_failure (hf : s.errf = true) (he : s.err ≠ .none) (hv : s.vok = false) :
    s.StatusConsistent :=
  ⟨iff_of_true hf (mt s.err.code_eq_zero_iff.1 he), by simp [hv]⟩

theorem State.StatusConsistent.of_success (hf : s.errf = false) (he : s.err = .none) : s.StatusConsistent :=
  ⟨iff_of_false (by simp [hf]) (not_not.2 (s.err.code_eq_zero_iff.2 he)), fun _ => hf⟩

/-- Every command ends with a status of its own, whatever the status before it. -/
theorem ExecEffect.statusConsistent (h : ExecEffect s i t) : t.StatusConsistent := by
  cases h with
  | failed _ _ hc => exact .of_failure rfl hc rfl
  | _ => exact .of_success rfl rfl

theorem EventEffect.statusConsistent (h : EventEffect s ev t) (hs : s.StatusConsistent) : t.StatusConsistent := by
  cases h with
  | command _ _ he => exact he.statusConsistent
  | reserved => exact .of_failure rfl ErrCode.noConfusion rfl
  | register =>
    constructor
    · simpa using hs.errf
    · simpa using hs.vok
  | hardReset => exact .of_success rfl rfl
  | _ => exact ⟨hs.errf, hs.vok⟩

/-! ### BUF (10_state.md R23) -/

theorem State.BufCanonical.memWrite (hs : s.BufCanonical) {off : Nat} {out : Bytes}
    (hb : off + out.length ≤ s.cfg.bufBytes) : (s.memWrite off out).BufCanonical where
  rising := Memory.writeBytes_wf off out hs.rising
  inside c hc := by
    rcases Memory.mem_writeBytes hc with hold | hnew
    · exact hs.inside c hold
    · exact hnew.2.trans_le hb

theorem ExecEffect.bufCanonical (h : ExecEffect s i t) (hs : s.BufCanonical) : t.BufCanonical := by
  cases h with
  | cmc _ _ _ _ hb => exact ⟨(hs.memWrite hb).rising, (hs.memWrite hb).inside⟩
  | _ => exact ⟨hs.rising, hs.inside⟩

theorem EventEffect.bufCanonical (h : EventEffect s ev t) (hs : s.BufCanonical) : t.BufCanonical := by
  cases h with
  | command _ _ he => exact he.bufCanonical hs
  | register =>
    constructor
    · simpa using hs.rising
    · simpa using hs.inside
  | buf _ hl => exact hs.memWrite (locate_buf hl).1
  | hardReset => exact ⟨.nil, fun _ hc => nomatch hc⟩
  | _ => exact ⟨hs.rising, hs.inside⟩

/-! ### OUTLEN (10_state.md R17) -/

theorem ExecEffect.outlenFits (h : ExecEffect s i t) (hs : s.OutlenFits) : t.OutlenFits := by
  cases h with
  | srst => exact Nat.zero_le _
  | cmc _ out _ _ hb =>
    have hout : out.length ≤ s.cfg.bufBytes := by omega
    exact (BitVec.toNat_ofNat .. ▸ Nat.mod_le _ _).trans hout
  | _ => exact hs

/-- OUTLEN is no register the host writes. -/
theorem State.putReg_outlen (s : State) {r : Reg} (v : Bytes) (h : r.hostWritable = true) :
    (s.putReg r v).outlen = s.outlen := by
  cases r with
  | outlen => cases h
  | _ => rfl

theorem EventEffect.outlenFits (h : EventEffect s ev t) (hs : s.OutlenFits) : t.OutlenFits := by
  cases h with
  | command _ _ he => exact he.outlenFits hs
  | register _ _ hw =>
    rw [State.OutlenFits, State.putReg_outlen _ _ hw, State.putReg_cfg]
    exact hs
  | hardReset => exact Nat.zero_le _
  | _ => exact hs

/-! ### The invariant -/

theorem EventEffect.inv (h : EventEffect s ev t) (hs : s.Inv) : t.Inv where
  widths := h.meeWidths hs.widths
  roundKeys := h.roundKeysCurrent hs.roundKeys
  status := h.statusConsistent hs.status
  buf := h.bufCanonical hs.buf
  outlen := h.outlenFits hs.outlen

/-- The invariant says nothing of the host's side. -/
theorem State.Inv.withHost (hs : s.Inv) (p : List HostEvent) (r : List Byte) : (s.withHost p r).Inv where
  widths := ⟨hs.widths.n, hs.widths.e, hs.widths.d, hs.widths.x, hs.widths.y, hs.widths.h⟩
  roundKeys := ⟨hs.roundKeys.valid, hs.roundKeys.invalid⟩
  status := ⟨hs.status.errf, hs.status.vok⟩
  buf := ⟨hs.buf.rising, hs.buf.inside⟩
  outlen := hs.outlen

theorem step_inv (hs : s.Inv) (h : step s = .next t) : t.Inv := by
  rcases step_effect h with rfl | ⟨ev, rest, he⟩
  · exact hs
  · exact he.inv (hs.withHost rest s.replies)

theorem State.afterPowerOn_inv (c : Config) (p : Nat) : (State.afterPowerOn c p).Inv where
  widths := by constructor <;> exact List.length_replicate
  roundKeys := .of_dropped rfl rfl
  status := .of_success rfl rfl
  buf := ⟨.nil, fun _ hc => nomatch hc⟩
  outlen := Nat.zero_le _

/-- A run of `k + 1` steps that answers a state is one step and then a run of `k`. -/
theorem run_succ_next {M : Host.Core} {k : Nat} {s t : M.State} (h : M.run (k + 1) s = .next t) :
    ∃ u, M.step s = .next u ∧ M.run k u = .next t := by
  rw [Host.Core.run] at h
  split at h
  next u hu => exact ⟨u, hu, h⟩
  next => cases h
  next => cases h

/-- What every step keeps holds after any number of steps. -/
theorem run_keeps {P : State → Prop} (hP : ∀ s t, P s → step s = .next t → P t) (k : Nat) (hs : P s)
    (h : Sys2Proof.core.run k s = .next t) : P t := by
  induction k generalizing s with
  | zero =>
    injection h with h
    exact h ▸ hs
  | succ k ih =>
    obtain ⟨u, hu, hrun⟩ := run_succ_next h
    exact ih (hP s u hs hu) hrun

/-! ### Who writes RKVALID and RK (10_state.md R15, R21) -/

theorem encode_of_decode {b : Byte} (h : decode b = .ok i) : encode i = b := by
  have hall : ∀ c : Byte, (decode c).toOption.all (fun j => encode j = c) = true := by decide
  simpa [h, Except.toOption] using hall b

theorem ExecEffect.roundKeys_cases (h : ExecEffect s i t) :
    i = .keyexp ∨ (i = .srst ∧ t.rkvalid = false) ∨ (t.rkvalid = s.rkvalid ∧ t.rk = s.rk) := by
  cases h with
  | keyexp => exact .inl rfl
  | srst => exact .inr (.inl ⟨rfl, rfl⟩)
  | _ => exact .inr (.inr ⟨rfl, rfl⟩)

/-- A host event that is no KEYEXP clears RKVALID, and then is one of three, or leaves RKVALID and RK. -/
theorem EventEffect.roundKeys_cases (h : EventEffect s ev t) :
    ev = .write 0x0000 0x10 ∨
    ((ev = .write 0x0000 0x01 ∨ ev = .hardReset ∨
        ∃ a b, ev = .write a b ∧ 0x0010 ≤ a.toNat ∧ a.toNat ≤ 0x0017) ∧ t.rkvalid = false) ∨
    (t.rkvalid = s.rkvalid ∧ t.rk = s.rk) := by
  cases h with
  | command b hd he =>
    obtain rfl := encode_of_decode hd
    rcases he.roundKeys_cases with rfl | ⟨rfl, hv⟩ | hsame
    · exact .inl rfl
    · exact .inr (.inl ⟨.inl rfl, hv⟩)
    · exact .inr (.inr hsame)
  | key b hl =>
    obtain ⟨hj, ha⟩ := locate_reg hl
    simp only [Reg.width, Reg.base] at hj ha
    exact .inr (.inl ⟨.inr (.inr ⟨_, b, rfl, by omega, by omega⟩), rfl⟩)
  | hardReset => exact .inr (.inl ⟨.inr (.inl rfl), rfl⟩)
  | register => exact .inr (.inr ⟨s.putReg_rkvalid _ _, s.putReg_rk _ _⟩)
  | _ => exact .inr (.inr ⟨rfl, rfl⟩)

/-! ### A write to KEY (10_state.md R18) -/

theorem hostWrite_keyAddr (s : State) {j : Nat} (b : Byte) (h : j < 8) :
    hostWrite (Reg.key.addr j) b s = .next (s.putReg .key ((s.regBytes .key).set j b)).dropRoundKeys := by
  have hl : locate s.cfg (Reg.key.addr j).toNat = .reg .key j := by
    rw [Reg.toNat_addr .key s.cfg h, locate_base_add s.cfg .key h]
  simp [hostWrite, State.storeByte, hl, Reg.hostWritable]

theorem hostRead_keyAddr_putReg (s : State) {v : Bytes} (hv : v.length = 8) {j : Nat} (h : j < 8) :
    (s.putReg .key v).dropRoundKeys.hostRead (Reg.key.addr j) = v.getD j 0 := by
  rw [State.hostRead_regAddr _ .key h]
  exact congrArg (List.getD · j 0) (s.regBytes_putReg_same .key v hv)

end Sys2Proof.Machine
end

section
open Sys2Proof Sys2Proof.Machine

/-- Settles O15: every part of the invariant is kept by every effect of a step. -/
theorem everyStepKeepsInv : Obligations.EveryStepKeepsInv := by
  unfold Obligations.EveryStepKeepsInv
  intro s t hs h
  exact step_inv hs h

/-- Settles O6: no effect of a step touches the configuration. -/
theorem parametersNeverChange : Obligations.ParametersNeverChange := by
  unfold Obligations.ParametersNeverChange
  intro s t h
  rcases step_effect h with rfl | ⟨ev, rest, he⟩
  · rfl
  · exact he.cfg_eq

/-- Settles O11: the write puts one byte of KEY's byte string and drops the round keys. -/
theorem keyWriteDropsTheRoundKeys : Obligations.KeyWriteDropsTheRoundKeys := by
  unfold Obligations.KeyWriteDropsTheRoundKeys
  intro s i b hi
  refine ⟨_, hostWrite_keyAddr s b hi, rfl, fun j hj => ?_⟩
  have hlen : (s.regBytes .key).length = 8 := length_bytesOf s.key
  rw [hostRead_keyAddr_putReg s (by simpa using hlen) hj, State.hostRead_regAddr s .key hj]
  by_cases hji : j = i
  · simp [hji, hlen, hi]
  · simp [hji, Ne.symm hji]

/-- Settles O16, by induction on the number of steps with the whole invariant. -/
theorem reachableStatesKeepRoundKeysAndStatus : Obligations.ReachableStatesKeepRoundKeysAndStatus := by
  unfold Obligations.ReachableStatesKeepRoundKeysAndStatus
  intro c p evs k t h
  have hinit : State.Inv { State.afterPowerOn c p with pending := evs } :=
    (State.afterPowerOn_inv c p).withHost evs []
  have hinv : t.Inv := run_keeps (P := State.Inv) (fun _ _ => step_inv) k hinit h
  refine ⟨hinv.roundKeys.valid, hinv.roundKeys.invalid, ?_⟩
  rw [State.hostRead_err]
  exact hinv.status.errf

/-- Settles O22: KEYEXP alone sets RKVALID, and the other writers of RK clear it. -/
theorem onlyKeyEventsChangeTheRoundKeys : Obligations.OnlyKeyEventsChangeTheRoundKeys := by
  unfold Obligations.OnlyKeyEventsChangeTheRoundKeys
  intro s t ev rest hp h
  rcases (step_effect_of_pending hp h).roundKeys_cases with hev | ⟨hev, hclear⟩ | ⟨hv, hk⟩
  · exact ⟨fun _ _ => hev, fun _ => .inl hev⟩
  · exact ⟨fun _ hset => absurd (hset.symm.trans hclear) (by decide), fun _ => .inr hev⟩
  · refine ⟨fun hold hset => ?_, fun hchange => ?_⟩
    · exact absurd (hset.symm.trans (hv.trans hold)) (by decide)
    · exact absurd hchange (by simp [hv, hk])

/-- Settles O14: `State.reset` is the case of the default configuration and count 0. -/
theorem invHoldsAfterReset : Obligations.InvHoldsAfterReset := by
  unfold Obligations.InvHoldsAfterReset
  exact ⟨State.afterPowerOn_inv, State.afterPowerOn_inv Config.default 0⟩

end

section
/-! The address map from outside. Each host access is said once by the place its address names: what a read returns,
what a write stores, and what every other address then reads. The map covers all 65536 addresses. -/

namespace Sys2Proof.Machine

variable {s : State}

/-! ### The next event -/

theorem step_of_pending {ev : HostEvent} {rest : List HostEvent} (h : s.pending = ev :: rest) :
    step s = hostEvent ev { s with pending := rest } := by
  simp only [step, hostStep, h]

@[simp] theorem writeRun_cons (a : Addr) (b : Byte) (bs : Bytes) :
    writeRun a (b :: bs) = .write a b :: writeRun (a + 1) bs := rfl

theorem hostWrite_cmd (c : Byte) (s : State) : hostWrite 0x0000 c s = issueCommand c s := by
  simp [hostWrite, locate]

/-! ### Reads -/

/-- The bits of STATUS as a number (10_state.md R15). -/
theorem State.toNat_statusByte (s : State) :
    s.statusByte.toNat = s.errf.toNat + 2 * s.rkvalid.toNat + 4 * s.vok.toNat := by
  unfold State.statusByte
  cases s.errf <;> cases s.rkvalid <;> cases s.vok <;> decide

theorem State.rkBytes_fin (s : State) (i : Fin 16) : s.rkBytes i = toBE (s.rk[i]).toNat 6 := by
  simp [State.rkBytes, bytesOf]

theorem State.hostRead_reserved {a : Addr} (h : ReservedAddress s.cfg a.toNat) : s.hostRead a = 0x00 := by
  rw [State.hostRead, locate_reserved s.cfg h]

/-! ### Every address is mapped or reserved (20_memory.md R28) -/

/-- Each address is CMD, STATUS or ERR, or lies in a register, in RK or in BUF, or is reserved. -/
theorem address_covered (c : Config) {a : Nat} (h : a < 2 ^ 16) :
    a < 3 ∨ (∃ r : Reg, r.base ≤ a ∧ a < r.base + r.width c) ∨ (0x0040 ≤ a ∧ a < 0x00A0) ∨
      (0x4000 ≤ a ∧ a < 0x4000 + c.bufBytes) ∨ ReservedAddress c a := by
  by_cases hreg : ∃ r : Reg, r.base ≤ a ∧ a < r.base + r.width c
  · exact .inr (.inl hreg)
  · have hall : ∀ r ∈ Reg.all, ¬ (r.base ≤ a ∧ a < r.base + r.width c) := fun r _ hr => hreg ⟨r, hr⟩
    simp only [Reg.all, List.forall_mem_cons, Reg.base, Reg.width] at hall
    unfold ReservedAddress
    omega

theorem Reg.eq_addr {r : Reg} {a : Addr} (h : r.base ≤ a.toNat) : a = r.addr (a.toNat - r.base) := by
  simp [Reg.addr, Nat.add_sub_cancel' h]

theorem eq_bufAddr {a : Addr} (h : 0x4000 ≤ a.toNat) : a = bufAddr (a.toNat - 0x4000) := by
  simp [bufAddr, Nat.add_sub_cancel' h]

theorem eq_rkAddr {a : Addr} (h : 0x0040 ≤ a.toNat) :
    a = rkAddr ((a.toNat - 0x0040) / 6) ((a.toNat - 0x0040) % 6) := by
  have hsum : 0x0040 + 6 * ((a.toNat - 0x0040) / 6) + (a.toNat - 0x0040) % 6 = a.toNat := by omega
  simp [rkAddr, hsum]

/-! ### Writes that store nothing (20_memory.md R32) -/

theorem hostWrite_reserved {a : Addr} (b : Byte) (h : ReservedAddress s.cfg a.toNat) : hostWrite a b s = .next s := by
  simp only [hostWrite, State.storeByte, locate_reserved s.cfg h]

theorem State.storeByte_readOnly {a : Addr} (b : Byte) (h : ReadOnlyAddress s.cfg a.toNat) : s.storeByte a b = s := by
  have hmax := s.cfg.mee_max
  unfold ReadOnlyAddress at h
  rcases s.storeByte_cases a b with ⟨r, i, hl, hw, -, -⟩ | ⟨i, hl, -⟩ | ⟨off, hl, -⟩ | hs
  · obtain ⟨hi, ha⟩ := locate_reg hl
    cases r with
    | outlen | blkout | y => cases hw
    | _ =>
      simp only [Reg.width, Reg.base] at hi ha
      omega
  · obtain ⟨hi, ha⟩ := locate_reg hl
    simp only [Reg.width, Reg.base] at hi ha
    omega
  · obtain ⟨-, ha⟩ := locate_buf hl
    omega
  · exact hs

theorem hostWrite_readOnly {a : Addr} (b : Byte) (h : ReadOnlyAddress s.cfg a.toNat) : hostWrite a b s = .next s := by
  rcases hostWrite_cases a b s with ⟨hl, -⟩ | ⟨-, hw⟩
  · have ha := locate_cmd hl
    unfold ReadOnlyAddress at h
    omega
  · rw [hw, State.storeByte_readOnly b h]

/-! ### Writes that store one byte (20_memory.md R31) -/

theorem locate_of_reg (c : Config) {r : Reg} {a : Nat} (h : r.base ≤ a ∧ a < r.base + r.width c) :
    locate c a = .reg r (a - r.base) := by
  have hloc := locate_base_add c r (i := a - r.base) (by omega)
  rwa [Nat.add_sub_cancel' h.1] at hloc

theorem locate_of_buf (c : Config) {a : Nat} (h : 0x4000 ≤ a ∧ a < 0x4000 + c.bufBytes) :
    locate c a = .buf (a - 0x4000) := by
  have hloc := locate_bufOffset c (off := a - 0x4000) (by omega)
  rwa [Nat.add_sub_cancel' h.1] at hloc

/-- The addresses of R31 name a byte of a writable register other than KEY, or a byte of BUF. -/
theorem locate_plainWritable {c : Config} {a : Addr} (h : PlainWritable c a.toNat) :
    (∃ r i, locate c a.toNat = .reg r i ∧ r.hostWritable = true ∧ r ≠ .key) ∨
      ∃ off, locate c a.toNat = .buf off := by
  have hmax := c.mee_max
  unfold PlainWritable at h
  rcases address_covered c a.isLt with hlow | ⟨r, hr⟩ | hrk | hbuf | hres
  · omega
  · refine .inl ⟨r, _, locate_of_reg c hr, ?_⟩
    cases r with
    | key | outlen | blkout | y =>
      simp only [Reg.base, Reg.width] at hr
      omega
    | _ => exact ⟨rfl, Reg.noConfusion⟩
  · omega
  · exact .inr ⟨_, locate_of_buf c hbuf⟩
  · unfold ReservedAddress at hres
    omega

theorem hostWrite_reg {a : Addr} {r : Reg} {i : Nat} (b : Byte) (hl : locate s.cfg a.toNat = .reg r i)
    (hw : r.hostWritable = true) (hk : r ≠ .key) :
    hostWrite a b s = .next (s.putReg r ((s.regBytes r).set i b)) := by
  simp [hostWrite, State.storeByte, hl, hw, hk]

theorem hostWrite_buf {a : Addr} {off : Nat} (b : Byte) (hl : locate s.cfg a.toNat = .buf off) :
    hostWrite a b s = .next (s.memWrite off [b]) := by
  simp only [hostWrite, State.storeByte, hl]

@[simp] theorem State.putReg_statusByte (s : State) (r : Reg) (v : Bytes) :
    (s.putReg r v).statusByte = s.statusByte := by
  simp only [State.statusByte, State.putReg_errf, State.putReg_rkvalid, State.putReg_vok]

@[simp] theorem State.putReg_rkBytes (s : State) (r : Reg) (v : Bytes) (i : Nat) :
    (s.putReg r v).rkBytes i = s.rkBytes i := by
  rw [State.rkBytes, State.putReg_rk, State.rkBytes]

@[simp] theorem State.putReg_bufByte (s : State) (r : Reg) (v : Bytes) (off : Nat) :
    (s.putReg r v).bufByte off = s.bufByte off := by
  simp only [State.bufByte, State.putReg_buf, State.putReg_powerOns]

/-- After one byte of a register is put, its address reads as the byte and every other address as before. -/
theorem State.hostRead_putReg_set (hs : s.MeeWidths) {a : Addr} {r : Reg} {i : Nat} (b : Byte)
    (hl : locate s.cfg a.toNat = .reg r i) (a' : Addr) :
    (s.putReg r ((s.regBytes r).set i b)).hostRead a' = if a' = a then b else s.hostRead a' := by
  obtain ⟨hi, ha⟩ := locate_reg hl
  have hlen : (s.regBytes r).length = r.width s.cfg := s.length_regBytes hs r
  have hsame : (s.putReg r ((s.regBytes r).set i b)).regBytes r = (s.regBytes r).set i b :=
    s.regBytes_putReg_same r _ (by rw [List.length_set, hlen])
  by_cases haa : a' = a
  · rw [if_pos haa, haa, State.hostRead, State.putReg_cfg, hl]
    simp [hsame, hlen, hi]
  · rw [if_neg haa, State.hostRead, State.hostRead, State.putReg_cfg]
    cases hl' : locate s.cfg a'.toNat with
    | reg q j =>
      by_cases hq : q = r
      · subst hq
        have hij : i ≠ j := fun hij => haa (BitVec.eq_of_toNat_eq (by rw [(locate_reg hl').2, ha, hij]))
        simp [hsame, hij]
      · simp only [s.regBytes_putReg_other _ hq]
    | _ => simp

/-- After one byte of BUF is written, its address reads as the byte and every other address as before. -/
theorem State.hostRead_memWrite_byte {a : Addr} {off : Nat} (b : Byte) (hl : locate s.cfg a.toNat = .buf off)
    (a' : Addr) : (s.memWrite off [b]).hostRead a' = if a' = a then b else s.hostRead a' := by
  by_cases haa : a' = a
  · rw [if_pos haa, haa, State.hostRead, State.memWrite_cfg, hl]
    exact s.bufByte_memWrite_inside off [b] (j := 0) Nat.one_pos
  · rw [if_neg haa, State.hostRead, State.hostRead, State.memWrite_cfg]
    cases hl' : locate s.cfg a'.toNat with
    | buf o =>
      have ho : o ≠ off := fun ho =>
        haa (BitVec.eq_of_toNat_eq (by rw [(locate_buf hl').2, (locate_buf hl).2, ho]))
      exact s.bufByte_memWrite_outside off [b] (by simp only [List.length_singleton]; omega)
    | _ => rfl

end Sys2Proof.Machine
end

section
open Sys2Proof Sys2Proof.Machine

/-- Settles O8: each clause is the read at one kind of place, and the map covers every address. -/
theorem hostReadReturnsTheMappedByte : Obligations.HostReadReturnsTheMappedByte := by
  unfold Obligations.HostReadReturnsTheMappedByte
  intro s
  refine ⟨fun a => ⟨_, rfl, rfl⟩, s.hostRead_cmd, ?_, s.hostRead_err, fun r i hi => s.hostRead_regAddr r hi, ?_,
    fun off hoff => s.hostRead_bufAddr hoff, fun a ha => State.hostRead_reserved ha, ?_⟩
  · rw [State.hostRead_status, State.toNat_statusByte]
  · intro i j hj
    rw [State.hostRead_rkAddr s i.isLt hj, State.rkBytes_fin]
  · intro a
    rcases address_covered s.cfg a.isLt with hlow | ⟨r, hr⟩ | hrk | hbuf | hres
    · have hlow3 : a.toNat = 0 ∨ a.toNat = 1 ∨ a.toNat = 2 := by omega
      rcases hlow3 with h | h | h
      · exact .inl (BitVec.eq_of_toNat_eq h)
      · exact .inr (.inl (BitVec.eq_of_toNat_eq h))
      · exact .inr (.inr (.inl (BitVec.eq_of_toNat_eq h)))
    · exact .inr (.inr (.inr (.inl ⟨r, a.toNat - r.base, by omega, Reg.eq_addr hr.1⟩)))
    · exact .inr (.inr (.inr (.inr (.inl ⟨_, _, by omega, by omega, eq_rkAddr hrk.1⟩))))
    · exact .inr (.inr (.inr (.inr (.inr (.inl ⟨_, by omega, eq_bufAddr hbuf.1⟩)))))
    · exact .inr (.inr (.inr (.inr (.inr (.inr hres)))))

/-- Settles O10: the address names a byte of a writable register other than KEY, or of BUF. -/
theorem plainWriteStoresOneByte : Obligations.PlainWriteStoresOneByte := by
  unfold Obligations.PlainWriteStoresOneByte
  intro s a b hs ha
  rcases locate_plainWritable ha with ⟨r, i, hl, hw, hk⟩ | ⟨off, hl⟩
  · refine ⟨_, hostWrite_reg b hl hw hk, ?_, fun a' ha' => ?_, s.putReg_rk _ _, s.putReg_cfg _ _,
      s.putReg_pending _ _, s.putReg_replies _ _, s.putReg_powerOns _ _⟩
    · rw [State.hostRead_putReg_set hs b hl, if_pos rfl]
    · rw [State.hostRead_putReg_set hs b hl, if_neg ha']
  · refine ⟨_, hostWrite_buf b hl, ?_, fun a' ha' => ?_, rfl, rfl, rfl, rfl, rfl⟩
    · rw [State.hostRead_memWrite_byte b hl, if_pos rfl]
    · rw [State.hostRead_memWrite_byte b hl, if_neg ha']

/-- Settles O12: the map has nothing at a reserved address, and a read-only one is no place a store reaches. -/
theorem reservedAndReadOnlyIgnoreWrites : Obligations.ReservedAndReadOnlyIgnoreWrites := by
  unfold Obligations.ReservedAndReadOnlyIgnoreWrites
  intro s a b
  exact ⟨fun h => ⟨State.hostRead_reserved h, hostWrite_reserved b h⟩, hostWrite_readOnly b⟩

/-- Settles O7: the run's first access is the write to CMD, and the rest of the run stays in the queue. -/
theorem wideWriteIssuesTheCommandFirst : Obligations.WideWriteIssuesTheCommandFirst := by
  unfold Obligations.WideWriteIssuesTheCommandFirst
  intro s c bs h
  rw [writeRun_cons] at h
  rw [step_of_pending h]
  exact hostWrite_cmd c _

/-- Settles O9: the step is the read event, and no read depends on the queue. -/
theorem readsHaveNoSideEffect : Obligations.ReadsHaveNoSideEffect := by
  unfold Obligations.ReadsHaveNoSideEffect
  intro s a rest h
  rw [step_of_pending h]
  rfl

end

section
/-! Commands as the host issues them, and whole strings stored by byte writes. The decoder gives back every command from
its byte; a run of writes that stays clear of CMD is a run of stores, and a run over a register replaces its bytes. Last,
the PK commands: their outcome is a function of the parameters and the MEE registers. -/

namespace Sys2Proof.Machine

variable {s t : State}

/-! ### The decoder and the step (30_encoding.md R44, R48) -/

theorem decode_encode (i : Instr) : decode (encode i) = .ok i := by
  cases i with
  | nop => exact Laws.RoundTrip.nop.2
  | srst => exact Laws.RoundTrip.srst.2
  | keyexp => exact Laws.RoundTrip.keyexp.2
  | blkenc => exact Laws.RoundTrip.blkenc.2
  | blkdec => exact Laws.RoundTrip.blkdec.2
  | ecbenc => exact Laws.RoundTrip.ecbenc.2
  | ecbdec => exact Laws.RoundTrip.ecbdec.2
  | cbcenc => exact Laws.RoundTrip.cbcenc.2
  | cbcdec => exact Laws.RoundTrip.cbcdec.2
  | ctsenc => exact Laws.RoundTrip.ctsenc.2
  | ctsdec => exact Laws.RoundTrip.ctsdec.2
  | pkenc => exact Laws.RoundTrip.pkenc.2
  | pkdec => exact Laws.RoundTrip.pkdec.2
  | pksign => exact Laws.RoundTrip.pksign.2
  | pkvfy => exact Laws.RoundTrip.pkvfy.2

theorem step_of_commandWrite {c : Byte} {i : Instr} {rest : List HostEvent} (hd : decode c = .ok i)
    (hp : s.pending = .write 0x0000 c :: rest) : step s = exec i { s with pending := rest } := by
  rw [step_of_pending hp]
  simp only [hostEvent, hostWrite_cmd, issueCommand, hd]

theorem State.withFetchWord_encode (s : State) (n : Nat) (i : Instr) :
    s.withFetchWord n (encode i).toNat = s.withCommand (encode i) := by
  rw [State.withFetchWord, BitVec.ofNat_toNat, BitVec.setWidth_eq]

/-! ### One store -/

theorem State.storeByte_cfg (s : State) (a : Addr) (b : Byte) : (s.storeByte a b).cfg = s.cfg :=
  (EventEffect.of_storeByte s a b).cfg_eq

theorem State.MeeWidths.storeByte (hs : s.MeeWidths) (a : Addr) (b : Byte) : (s.storeByte a b).MeeWidths :=
  (EventEffect.of_storeByte s a b).meeWidths hs

theorem State.regBytes_withHost (s : State) (p : List HostEvent) (q : List Byte) (r : Reg) :
    (s.withHost p q).regBytes r = s.regBytes r := by
  cases r <;> rfl

theorem State.putReg_withHost (s : State) (p : List HostEvent) (q : List Byte) (r : Reg) (v : Bytes) :
    (s.withHost p q).putReg r v = (s.putReg r v).withHost p q := by
  cases r <;> rfl

theorem State.storeByte_withHost (s : State) (p : List HostEvent) (q : List Byte) (a : Addr) (b : Byte) :
    (s.withHost p q).storeByte a b = (s.storeByte a b).withHost p q := by
  unfold State.storeByte
  rw [show (s.withHost p q).cfg = s.cfg from rfl]
  cases locate s.cfg a.toNat with
  | reg r i =>
    simp only [s.regBytes_withHost, s.putReg_withHost, apply_ite (State.withHost · p q)]
    rfl
  | _ => rfl

/-- A write to any address but CMD's, as the host's next access. -/
theorem step_storeByte (s : State) {a : Addr} (b : Byte) (p : List HostEvent) (q : List Byte) (ha : a ≠ 0x0000) :
    step (s.withHost (.write a b :: p) q) = .next ((s.storeByte a b).withHost p q) := by
  rw [← s.storeByte_withHost]
  rcases hostWrite_cases a b (s.withHost p q) with ⟨hl, -⟩ | ⟨-, hw⟩
  · exact absurd (BitVec.eq_of_toNat_eq (locate_cmd hl)) ha
  · exact (step_of_pending (ev := .write a b) (rest := p) rfl).trans hw

/-! ### A run of stores -/

/-- The bytes `bs` stored one after the other, from address `a` up: what the accesses of `writeRun a bs` leave. -/
def State.storeRun (s : State) (a : Addr) : Bytes → State
  | [] => s
  | b :: bs => (s.storeByte a b).storeRun (a + 1) bs

theorem run_succ_of_step {M : Host.Core} (k : Nat) {s u : M.State} (h : M.step s = .next u) :
    M.run (k + 1) s = M.run k u := by
  rw [Host.Core.run, h]

theorem core_run_succ_of_step (k : Nat) (h : step s = .next t) :
    Sys2Proof.core.run (k + 1) s = Sys2Proof.core.run k t :=
  run_succ_of_step (M := Sys2Proof.core) (s := s) (u := t) k h

/-- One step for each byte of the run, when the run begins above CMD and does not pass the end of the address space. -/
theorem run_writeRun (s : State) (a : Addr) (bs : Bytes) (p : List HostEvent) (q : List Byte) (hcmd : 0 < a.toNat)
    (hend : a.toNat + bs.length < 2 ^ 16) :
    Sys2Proof.core.run bs.length (s.withHost (writeRun a bs ++ p) q) = .next ((s.storeRun a bs).withHost p q) := by
  induction bs generalizing s a with
  | nil => rfl
  | cons b bs ih =>
    rw [List.length_cons] at hend
    have hnext : (a + 1).toNat = a.toNat + 1 := by bv_omega
    have hstep := step_storeByte s (a := a) b (writeRun (a + 1) bs ++ p) q (by bv_omega)
    rw [List.length_cons, writeRun_cons, List.cons_append, core_run_succ_of_step _ hstep,
      ih _ _ (by omega) (by omega), State.storeRun]

/-! ### Stores into a register (20_memory.md R31, 10_state.md R18) -/

theorem Reg.addr_succ (r : Reg) (i : Nat) : r.addr i + 1 = r.addr (i + 1) :=
  (BitVec.ofNat_add (r.base + i) 1).symm

theorem Reg.width_pos (c : Config) (r : Reg) : 0 < r.width c := by
  have hmin := c.mee_min
  cases r <;> simp only [Reg.width] <;> omega

/-- Every register lies above CMD, and BUF above every register. -/
theorem Reg.range_clear (c : Config) (r : Reg) : 3 ≤ r.base ∧ r.base + r.width c ≤ 0x4000 := by
  have hmax := c.mee_max
  cases r <;> simp only [Reg.base, Reg.width] <;> omega

@[simp] theorem State.dropRoundKeys_regBytes (s : State) (r : Reg) : s.dropRoundKeys.regBytes r = s.regBytes r := by
  cases r <;> rfl

/-- What no store into the register changes is as before after a run of them. -/
theorem State.storeRun_frame {α : Type} {r : Reg} (f : State → α)
    (hf : ∀ (s : State) {i : Nat} (b : Byte), i < r.width s.cfg → f (s.storeByte (r.addr i) b) = f s) (s : State)
    {i : Nat} {bs : Bytes} (h : i + bs.length ≤ r.width s.cfg) : f (s.storeRun (r.addr i) bs) = f s := by
  induction bs generalizing s i with
  | nil => rfl
  | cons b bs ih =>
    rw [List.length_cons] at h
    rw [State.storeRun, Reg.addr_succ, ih _ (by rw [State.storeByte_cfg]; omega), hf s b (by omega)]

section
variable {r : Reg} (hw : r.hostWritable = true)
include hw

theorem State.storeByte_regAddr (s : State) {i : Nat} (b : Byte) (hi : i < r.width s.cfg) :
    s.storeByte (r.addr i) b =
      if r = .key then (s.putReg r ((s.regBytes r).set i b)).dropRoundKeys
      else s.putReg r ((s.regBytes r).set i b) := by
  simp only [State.storeByte, r.toNat_addr s.cfg hi, locate_base_add s.cfg r hi, hw, if_true]

theorem State.regBytes_storeByte_same (hs : s.MeeWidths) {i : Nat} (b : Byte) (hi : i < r.width s.cfg) :
    (s.storeByte (r.addr i) b).regBytes r = (s.regBytes r).set i b := by
  have hput := s.regBytes_putReg_same r ((s.regBytes r).set i b) (by rw [List.length_set, s.length_regBytes hs r])
  rw [s.storeByte_regAddr hw b hi]
  split
  · rw [State.dropRoundKeys_regBytes, hput]
  · exact hput

theorem State.regBytes_storeByte_other (s : State) {i : Nat} (b : Byte) (hi : i < r.width s.cfg) {q : Reg}
    (hq : q ≠ r) : (s.storeByte (r.addr i) b).regBytes q = s.regBytes q := by
  rw [s.storeByte_regAddr hw b hi]
  split
  · rw [State.dropRoundKeys_regBytes, s.regBytes_putReg_other _ hq]
  · exact s.regBytes_putReg_other _ hq

theorem State.buf_storeByte_regAddr (s : State) {i : Nat} (b : Byte) (hi : i < r.width s.cfg) :
    (s.storeByte (r.addr i) b).buf = s.buf := by
  rw [s.storeByte_regAddr hw b hi]
  split <;> simp

theorem State.rkvalid_storeByte_regAddr (s : State) {i : Nat} (b : Byte) (hi : i < r.width s.cfg) :
    (s.storeByte (r.addr i) b).rkvalid = (s.rkvalid && decide (r ≠ .key)) := by
  rw [s.storeByte_regAddr hw b hi]
  split
  case isTrue hk => simp [hk]
  case isFalse hk => simp [hk]

/-- A run over the rest of a register leaves the bytes below it and the run's own. -/
theorem State.regBytes_storeRun_same (hs : s.MeeWidths) {i : Nat} {bs : Bytes} (h : i + bs.length = r.width s.cfg) :
    (s.storeRun (r.addr i) bs).regBytes r = (s.regBytes r).take i ++ bs := by
  induction bs generalizing s i with
  | nil =>
    have hlen : (s.regBytes r).length ≤ i := by rw [s.length_regBytes hs r, ← h]; exact Nat.le_refl _
    rw [State.storeRun, List.append_nil, List.take_of_length_le hlen]
  | cons b bs ih =>
    rw [List.length_cons] at h
    have hi : i < r.width s.cfg := by omega
    have hi' : i < (s.regBytes r).length := by rwa [s.length_regBytes hs r]
    have htake : ((s.regBytes r).set i b).take (i + 1) = (s.regBytes r).take i ++ [b] := by
      rw [List.take_add_one, List.take_set_of_le (Nat.le_refl i), List.getElem?_set_self hi', Option.toList_some]
    rw [State.storeRun, Reg.addr_succ, ih (hs.storeByte _ b) (by rw [State.storeByte_cfg]; omega),
      State.regBytes_storeByte_same hw hs b hi, htake, List.append_assoc, List.singleton_append]

/-- RKVALID survives a run over a register, unless the run writes a byte of KEY. -/
theorem State.rkvalid_storeRun (s : State) {i : Nat} {bs : Bytes} (h : i + bs.length ≤ r.width s.cfg) :
    (s.storeRun (r.addr i) bs).rkvalid = (s.rkvalid && decide (r = .key → bs = [])) := by
  induction bs generalizing s i with
  | nil => simp [State.storeRun]
  | cons b bs ih =>
    rw [List.length_cons] at h
    rw [State.storeRun, Reg.addr_succ, ih _ (by rw [State.storeByte_cfg]; omega),
      s.rkvalid_storeByte_regAddr hw b (by omega)]
    by_cases hk : r = .key <;> simp [hk]

end

/-! ### The line LD (30_encoding.md R50) -/

theorem HostLine.wf_ld_iff {c : Config} {r : Reg} {v : Bytes} :
    (HostLine.ld r v).wf c = true ↔ r.hostWritable = true ∧ v.length = r.width c := by
  simp [HostLine.wf]

theorem State.withProgram_ld (s : State) (r : Reg) (v : Bytes) :
    s.withProgram [.ld r v] = s.withHost (writeRun (r.addr 0) v ++ s.pending) s.replies := by
  simp [State.withProgram, State.withHost, programEvents, expand, unchecked, Function.comp_def]

/-- A well-formed LD runs, one step a byte, to the state with its string stored byte by byte. -/
theorem run_withProgram_ld (s : State) {r : Reg} {v : Bytes} (hv : v.length = r.width s.cfg) :
    Sys2Proof.core.run v.length (s.withProgram [.ld r v]) =
      .next ((s.storeRun (r.addr 0) v).withHost s.pending s.replies) := by
  have haddr : (r.addr 0).toNat = r.base := r.toNat_addr s.cfg (r.width_pos s.cfg)
  obtain ⟨hlow, hhigh⟩ := r.range_clear s.cfg
  rw [s.withProgram_ld]
  exact run_writeRun s (r.addr 0) v s.pending s.replies (by omega) (by omega)

/-! ### What the PK commands read and write (44_modexp.md) -/

/-- The two states have the same parameters and the same MEE registers. -/
structure State.SameMee (s t : State) : Prop where
  cfg : s.cfg = t.cfg
  n : s.n = t.n
  e : s.e = t.e
  d : s.d = t.d
  x : s.x = t.x
  y : s.y = t.y
  h : s.h = t.h

/-- The two states agree in all a PK command writes: Y, ERRF, ERR and VOK. -/
abbrev State.SamePkResult (s t : State) : Prop :=
  s.y = t.y ∧ s.errf = t.errf ∧ s.err = t.err ∧ s.vok = t.vok

theorem State.SameMee.raise (h : s.SameMee t) (c : ErrCode) : (s.raise c).SamePkResult (t.raise c) :=
  ⟨h.y, rfl, rfl, rfl⟩

theorem State.SameMee.putY_y (h : s.SameMee t) (v : Nat) : (s.putY v).y = (t.putY v).y :=
  congrArg (fun c : Config => toBE v c.meeBytes) h.cfg

theorem State.SameMee.pkCommand (h : s.SameMee t) (exponent : Bytes) :
    (s.pkCommand exponent).SamePkResult (t.pkCommand exponent) := by
  simp only [State.pkCommand, h.n, h.x]
  split
  · exact h.raise .range
  · exact ⟨h.putY_y _, rfl, rfl, rfl⟩

theorem State.SameMee.pkVerify (h : s.SameMee t) : s.pkVerify.SamePkResult t.pkVerify := by
  simp only [State.pkVerify, h.n, h.x, h.e, h.h]
  split
  · exact h.raise .range
  · exact ⟨h.putY_y _, rfl, rfl, rfl⟩

end Sys2Proof.Machine
end

section
open Sys2Proof Sys2Proof.Machine

/-- Settles O13: the run is a run of stores over the whole register. -/
theorem ldLoadsTheWholeRegister : Obligations.LdLoadsTheWholeRegister := by
  unfold Obligations.LdLoadsTheWholeRegister
  intro s r v hs hwf hp
  obtain ⟨hw, hv⟩ := HostLine.wf_ld_iff.1 hwf
  have hrange : 0 + v.length = r.width s.cfg := by rw [hv, Nat.zero_add]
  have hne : v ≠ [] := List.ne_nil_of_length_pos (hv ▸ r.width_pos s.cfg)
  refine ⟨_, run_withProgram_ld s hv, ?_, hp, fun q hq => ?_, ?_, ?_⟩
  · rw [State.regBytes_withHost, State.regBytes_storeRun_same hw hs hrange, List.take_zero, List.nil_append]
  · rw [State.regBytes_withHost]
    exact State.storeRun_frame (·.regBytes q) (fun s _ b hi => s.regBytes_storeByte_other hw b hi hq) s hrange.le
  · exact (s.rkvalid_storeRun hw hrange.le).trans (by simp [hne])
  · exact State.storeRun_frame (·.buf) (fun s _ b hi => s.buf_storeByte_regAddr hw b hi) s hrange.le

/-- Settles O24: the four commands are two templates, and each reads the MEE registers alone. -/
theorem pkCommandsDependOnMeeRegistersOnly : Obligations.PkCommandsDependOnMeeRegistersOnly := by
  unfold Obligations.PkCommandsDependOnMeeRegistersOnly
  intro i s s' t t' hi hc hn he hd hx hy hh ht ht'
  have hsame : s.SameMee s' := ⟨hc, hn, he, hd, hx, hy, hh⟩
  simp only [List.mem_cons, List.not_mem_nil, or_false] at hi
  obtain rfl | rfl | rfl | rfl := hi
  all_goals
    injection ht with ht
    injection ht' with ht'
    subst ht ht'
  · exact he ▸ hsame.pkCommand s.e
  · exact hd ▸ hsame.pkCommand s.d
  · exact hd ▸ hsame.pkCommand s.d
  · exact hsame.pkVerify

/-- Settles O1: the listed bytes are the encoder's; the kernel decodes all 256 bytes and counts the reserved ones. -/
theorem commandBytesDecodeAsListed : Obligations.CommandBytesDecodeAsListed := by
  unfold Obligations.CommandBytesDecodeAsListed
  constructor
  · intro p hp
    suffices hbyte : BitVec.ofNat 8 p.1 = encode p.2 by rw [hbyte, decode_encode]
    fin_cases hp <;> rfl
  · decide +kernel

/-- Settles O2: `encode_of_decode` and `decode_encode` are its two directions. -/
theorem decodeAndEncodeAgree : Obligations.DecodeAndEncodeAgree := by
  unfold Obligations.DecodeAndEncodeAgree
  intro c i _
  exact ⟨encode_of_decode, fun h => h ▸ decode_encode i⟩

/-- Settles O3: the write to CMD issues the decoded command, and `withFetchWord` places that write. -/
theorem stepRunsTheIssuedCommand : Obligations.StepRunsTheIssuedCommand := by
  unfold Obligations.StepRunsTheIssuedCommand
  constructor
  · intro s c i rest _ hd hp
    exact step_of_commandWrite hd hp
  · intro s i
    rw [s.withFetchWord_encode]
    exact step_of_commandWrite (decode_encode i) rfl

end

section
/-! The permutation engine and the substitution layer (spec/40_permutation_sbox.md R51, R54, R68). Both build their result
by shifting in one field per list entry, bits of table positions in the one case, nibbles of boxes in the other. What a
field of such a result holds is said once, for fields of any width. -/

namespace Sys2Proof.Machine

/-! ### Shifting in one field per list entry -/

section
variable {α : Type} {m n : Nat}

/-- `acc` with the field of each list entry shifted in from the right, the last entry's least significant. -/
def shiftInFields (f : α → BitVec m) (acc : BitVec n) (xs : List α) : BitVec n :=
  xs.foldl (fun out x => (out <<< m) ||| (f x).setWidth n) acc

theorem permute_eq_shiftInFields {inLen outLen : Nat} (v : BitVec inLen) (T : List Nat) :
    permute outLen v T = shiftInFields (msb v) 0 T := rfl

theorem sboxLayer_eq_shiftInFields (w : BitVec 48) :
    sboxLayer w = shiftInFields (fun k => sbox k (sboxGroup w k)) 0 [1, 2, 3, 4, 5, 6, 7, 8] := rfl

/-- What stood in the result before moves up by one field for each entry. -/
theorem getLsbD_shiftInFields_add (f : α → BitVec m) (acc : BitVec n) (xs : List α) {j : Nat}
    (h : m * xs.length + j < n) : (shiftInFields f acc xs).getLsbD (m * xs.length + j) = acc.getLsbD j := by
  induction xs generalizing acc j with
  | nil => simp [shiftInFields]
  | cons x xs ih =>
    have hpos : m * (x :: xs).length + j = m * xs.length + (m + j) := by rw [List.length_cons]; ring
    rw [hpos] at h ⊢
    have hj : m + j < n := by omega
    calc (shiftInFields f ((acc <<< m) ||| (f x).setWidth n) xs).getLsbD (m * xs.length + (m + j))
      _ = ((acc <<< m) ||| (f x).setWidth n).getLsbD (m + j) := ih _ h
      _ = acc.getLsbD j := by simp [hj, show j < n by omega]

theorem getLsbD_shiftInFields_append_cons (f : α → BitVec m) (acc : BitVec n) (pre : List α) (x : α) (post : List α)
    {j : Nat} (hj : j < m) (hn : m * post.length + m ≤ n) :
    (shiftInFields f acc (pre ++ x :: post)).getLsbD (m * post.length + j) = (f x).getLsbD j := by
  have hjn : j < n := by omega
  rw [shiftInFields, List.foldl_append, List.foldl_cons]
  exact (getLsbD_shiftInFields_add f _ post (by omega)).trans (by simp [hj, hjn])

/-- Each entry's field stands above those of the entries after it. -/
theorem getLsbD_shiftInFields (f : α → BitVec m) (acc : BitVec n) {xs : List α} {i j : Nat} (hi : i < xs.length)
    (hj : j < m) (hn : m * xs.length ≤ n) :
    (shiftInFields f acc xs).getLsbD (m * (xs.length - 1 - i) + j) = (f xs[i]).getLsbD j := by
  have hsplit : xs.take i ++ xs[i] :: xs.drop (i + 1) = xs := by simp
  have hafter : (xs.drop (i + 1)).length = xs.length - 1 - i := by rw [List.length_drop]; omega
  have hfit : m * (xs.drop (i + 1)).length + m ≤ n :=
    calc m * (xs.drop (i + 1)).length + m
      _ = m * (xs.length - 1 - i + 1) := by rw [hafter, Nat.mul_succ]
      _ ≤ m * xs.length := Nat.mul_le_mul_left m (by omega)
      _ ≤ n := hn
  have hfield := getLsbD_shiftInFields_append_cons f acc (xs.take i) xs[i] (xs.drop (i + 1)) hj hfit
  rwa [hsplit, hafter] at hfield

end

/-! ### Permute (R51) -/

/-- Table positions count from 1, bits from 0. -/
theorem getLsbD_msb {len p : Nat} (v : BitVec len) (h : 1 ≤ p ∧ p ≤ len) : (msb v p).getLsbD 0 = v.getMsbD (p - 1) := by
  have hbit : len - 1 - (p - 1) = len - p := by omega
  simp [msb, BitVec.getMsbD_eq_getLsbD, hbit, show p - 1 < len by omega]

/-- Every entry of the table is a position of a value of that many bits. -/
abbrev TablePositions (T : List Nat) (len : Nat) : Prop := ∀ p ∈ T, 1 ≤ p ∧ p ≤ len

theorem getMsbD_permute {inLen outLen : Nat} (v : BitVec inLen) {T : List Nat} (hlen : T.length = outLen)
    (hT : TablePositions T inLen) {i : Nat} (hi : i < outLen) :
    (permute outLen v T).getMsbD i = v.getMsbD (T.getD i 0 - 1) := by
  subst hlen
  have hfield := getLsbD_shiftInFields (msb v) (0 : BitVec T.length) hi Nat.one_pos (Nat.one_mul _).le
  rw [Nat.one_mul, Nat.add_zero, getLsbD_msb v (hT _ (List.getElem_mem hi))] at hfield
  rw [BitVec.getMsbD_eq_getLsbD, decide_eq_true hi, Bool.true_and, permute_eq_shiftInFields, hfield,
    List.getD_eq_getElem _ _ hi]

/-- Two tables undo each other when every position is looked up back to itself. -/
theorem permute_permute_of_lookup {n : Nat} (v : BitVec n) {T T' : List Nat} (hlen : T.length = n)
    (hlen' : T'.length = n) (hT : TablePositions T n) (hT' : TablePositions T' n)
    (hback : ∀ i < n, T.getD (T'.getD i 0 - 1) 0 = i + 1) : permute n (permute n v T) T' = v := by
  refine BitVec.eq_of_getMsbD_eq fun i hi => ?_
  have hpos : 1 ≤ T'.getD i 0 ∧ T'.getD i 0 ≤ n := by
    rw [List.getD_eq_getElem _ _ (hlen' ▸ hi)]
    exact hT' _ (List.getElem_mem _)
  rw [getMsbD_permute _ hlen' hT' hi, getMsbD_permute v hlen hT (by omega), hback i hi, Nat.add_sub_cancel]

theorem tableIP_positions : TablePositions tableIP 64 := by decide

theorem tableFP_positions : TablePositions tableFP 64 := by decide

/-! ### SboxLayer (R68) -/

theorem sboxGroup_eq (w : BitVec 48) {k : Nat} (h : 1 ≤ k) :
    sboxGroup w k = w.extractLsb' (48 - 6 * k) 6 := by
  rw [sboxGroup, show 42 - 6 * (k - 1) = 48 - 6 * k by omega]

theorem extractLsb'_sboxLayer (w : BitVec 48) {k : Nat} (h : 1 ≤ k) (h' : k ≤ 8) :
    (sboxLayer w).extractLsb' (32 - 4 * k) 4 = sbox k (sboxGroup w k) := by
  have hentry : (List.range' 1 8)[k - 1]'(by rw [List.length_range']; omega) = k := by
    rw [List.getElem_range']; omega
  refine BitVec.eq_of_getLsbD_eq fun j hj => ?_
  have hfield := getLsbD_shiftInFields (fun k => sbox k (sboxGroup w k)) (0 : Half) (xs := List.range' 1 8)
    (i := k - 1) (by rw [List.length_range']; omega) hj (by rw [List.length_range'])
  rw [hentry, List.length_range', show 4 * (8 - 1 - (k - 1)) = 32 - 4 * k by omega] at hfield
  rw [BitVec.getLsbD_extractLsb', decide_eq_true hj, Bool.true_and, sboxLayer_eq_shiftInFields]
  exact hfield

end Sys2Proof.Machine
end

section
open Sys2Proof Sys2Proof.Machine

/-- Settles O25: the bit for entry i is shifted in as a field of width 1. -/
theorem permutePlacesEachTableBit : Obligations.PermutePlacesEachTableBit := by
  unfold Obligations.PermutePlacesEachTableBit
  intro inLen v T hT i hi
  exact getMsbD_permute v rfl hT hi

/-- Settles O26: looked up through one table and then the other, each of the 64 positions comes back to itself. -/
theorem finalPermutationInvertsInitial : Obligations.FinalPermutationInvertsInitial := by
  unfold Obligations.FinalPermutationInvertsInitial
  intro v
  constructor
  · exact permute_permute_of_lookup v rfl rfl tableIP_positions tableFP_positions (by decide)
  · exact permute_permute_of_lookup v rfl rfl tableFP_positions tableIP_positions (by decide)

/-- Settles O27: the nibble of box k is shifted in as a field of width 4. -/
theorem sboxLayerUsesBoxKForGroupK : Obligations.SboxLayerUsesBoxKForGroupK := by
  unfold Obligations.SboxLayerUsesBoxKForGroupK
  intro w k h h'
  rw [extractLsb'_sboxLayer w h h', sboxGroup_eq w h]

end

section
/-! The key schedule (spec/41_key_schedule.md R70 to R74). A run of rotations moves each bit of a half by the sum of the
amounts, within the half, and the subkey of round i is PC2 of the halves after the first i + 1 rotations. So each subkey
bit is a bit of PC1's output, and PC1 looks no parity bit up. -/

namespace Sys2Proof.Machine

/-! ### Rotl28 (R70) -/

theorem rotl28_eq_rotateLeft (v : KeyHalf) {s : Nat} (hs : s < 28) : rotl28 v s = v.rotateLeft s := by
  rw [BitVec.rotateLeft_def, Nat.mod_eq_of_lt hs, rotl28]

theorem getMsbD_rotl28 (v : KeyHalf) {s j : Nat} (hs : s < 28) (hj : j < 28) :
    (rotl28 v s).getMsbD j = v.getMsbD ((j + s) % 28) := by
  rw [rotl28_eq_rotateLeft v hs, BitVec.getMsbD_rotateLeft, decide_eq_true hj, Bool.true_and, Nat.add_comm]

/-- Rotations in turn rotate by the sum of their amounts. -/
theorem getMsbD_foldl_rotl28 (v : KeyHalf) {ss : List Nat} (hss : ∀ s ∈ ss, s < 28) {j : Nat} (hj : j < 28) :
    (ss.foldl rotl28 v).getMsbD j = v.getMsbD ((j + ss.sum) % 28) := by
  induction ss generalizing v with
  | nil => rw [List.foldl_nil, List.sum_nil, Nat.add_zero, Nat.mod_eq_of_lt hj]
  | cons s ss ih =>
    obtain ⟨hs, hss⟩ := List.forall_mem_cons.1 hss
    have hpos : ((j + ss.sum) % 28 + s) % 28 = (j + (s + ss.sum)) % 28 := by omega
    rw [List.foldl_cons, ih _ hss, getMsbD_rotl28 v hs (Nat.mod_lt _ (by decide)), hpos, List.sum_cons]

theorem shifts_lt : ∀ s ∈ shifts, s < 28 := by decide

/-! ### KeySchedule (R72) -/

/-- The halves after the listed rotations, `C || D`. -/
def rotatedHalves (h : KeyHalf × KeyHalf) (ss : List Nat) : BitVec 56 :=
  ss.foldl rotl28 h.1 ++ ss.foldl rotl28 h.2

/-- The position, from the most significant, of `C || D` that rotating both halves by `total` brings to position `q`. -/
def sourcePosition (total q : Nat) : Nat :=
  if q < 28 then (q + total) % 28 else (q - 28 + total) % 28 + 28

theorem sourcePosition_lt (total q : Nat) : sourcePosition total q < 56 := by
  unfold sourcePosition
  split <;> omega

theorem getMsbD_rotatedHalves (h : KeyHalf × KeyHalf) {ss : List Nat} (hss : ∀ s ∈ ss, s < 28) {q : Nat}
    (hq : q < 56) :
    (rotatedHalves h ss).getMsbD q = (h.1 ++ h.2).getMsbD (sourcePosition ss.sum q) := by
  rw [rotatedHalves, BitVec.getMsbD_append, BitVec.getMsbD_append, sourcePosition]
  by_cases hC : q < 28
  · rw [if_neg (by omega), if_pos hC, if_neg (by omega), getMsbD_foldl_rotl28 _ hss hC]
  · rw [if_pos (by omega), if_neg hC, if_pos (by omega), getMsbD_foldl_rotl28 _ hss (by omega), Nat.add_sub_cancel]

theorem subkeysFrom_cons (h : KeyHalf × KeyHalf) (s : Nat) (ss : List Nat) :
    subkeysFrom h (s :: ss) =
      permute 48 (rotatedHalves h [s]) tablePC2 :: subkeysFrom (rotl28 h.1 s, rotl28 h.2 s) ss := rfl

theorem getElem_subkeysFrom (h : KeyHalf × KeyHalf) {ss : List Nat} {i : Nat} (hi : i < (subkeysFrom h ss).length) :
    (subkeysFrom h ss)[i] = permute 48 (rotatedHalves h (ss.take (i + 1))) tablePC2 := by
  induction ss generalizing h i with
  | nil => exact absurd hi (Nat.not_lt_zero i)
  | cons s ss ih =>
    simp only [subkeysFrom_cons]
    cases i with
    | zero => rw [List.getElem_cons_zero, List.take_succ_cons, List.take_zero]
    | succ i => exact ih _ _

theorem getElem_keySchedule (K : Block) (i : Fin 16) :
    (keySchedule K)[i] = permute 48 (rotatedHalves (keyHalves0 K) (shifts.take (i.val + 1))) tablePC2 :=
  getElem_subkeysFrom _ _

/-- The halves that the schedule starts from are PC1's output, cut in two. -/
theorem keyHalves0_append (K : Block) : (keyHalves0 K).1 ++ (keyHalves0 K).2 = permute 56 K tablePC1 :=
  (BitVec.extractLsb'_append_extractLsb'_eq_extractLsb' rfl).trans BitVec.extractLsb'_eq_self

theorem tablePC1_positions : TablePositions tablePC1 64 := by decide

theorem tablePC2_positions : TablePositions tablePC2 56 := by decide

theorem getMsbD_permute_tablePC1 (K : Block) {j : Nat} (hj : j < 56) :
    (permute 56 K tablePC1).getMsbD j = K.getMsbD (tablePC1.getD j 0 - 1) :=
  getMsbD_permute K rfl tablePC1_positions hj

theorem getMsbD_permute_tablePC2 (v : BitVec 56) {p : Nat} (hp : p < 48) :
    (permute 48 v tablePC2).getMsbD p = v.getMsbD (tablePC2.getD p 0 - 1) :=
  getMsbD_permute v rfl tablePC2_positions hp

theorem tablePC2_getD_lt : ∀ p < 48, tablePC2.getD p 0 - 1 < 56 := by decide

theorem getMsbD_keySchedule (K : Block) (i : Fin 16) {p : Nat} (hp : p < 48) :
    (keySchedule K)[i].getMsbD p =
      K.getMsbD (tablePC1.getD (sourcePosition (shifts.take (i.val + 1)).sum (tablePC2.getD p 0 - 1)) 0 - 1) := by
  have hss : ∀ s ∈ shifts.take (i.val + 1), s < 28 := fun s hs => shifts_lt s (List.mem_of_mem_take hs)
  rw [getElem_keySchedule, getMsbD_permute_tablePC2 _ hp, getMsbD_rotatedHalves _ hss (tablePC2_getD_lt p hp),
    keyHalves0_append, getMsbD_permute_tablePC1 K (sourcePosition_lt _ _)]

/-! ### The parity bits (R73) -/

/-- The mask clears the least significant bit of each byte; PC1 looks up no bit that it clears. -/
theorem getMsbD_keyBitMask_of_mem_tablePC1 :
    ∀ p ∈ tablePC1, (0xFEFEFEFEFEFEFEFE : Block).getMsbD (p - 1) = true := by decide

theorem permute_tablePC1_and_keyBitMask (K : Block) :
    permute 56 (K &&& 0xFEFEFEFEFEFEFEFE) tablePC1 = permute 56 K tablePC1 := by
  refine BitVec.eq_of_getMsbD_eq fun j hj => ?_
  have hmask : (0xFEFEFEFEFEFEFEFE : Block).getMsbD (tablePC1.getD j 0 - 1) = true := by
    rw [List.getD_eq_getElem tablePC1 0 hj]
    exact getMsbD_keyBitMask_of_mem_tablePC1 _ (List.getElem_mem hj)
  rw [getMsbD_permute_tablePC1 _ hj, getMsbD_permute_tablePC1 K hj, BitVec.getMsbD_and, hmask, Bool.and_true]

theorem keySchedule_and_keyBitMask (K : Block) : keySchedule (K &&& 0xFEFEFEFEFEFEFEFE) = keySchedule K := by
  simp only [keySchedule, keyHalves0, permute_tablePC1_and_keyBitMask]

/-! ### KEYEXP (R74) -/

/-- After a success STATUS shows RKVALID alone (10_state.md R15, 60_exceptions.md R113). -/
theorem State.statusByte_succeed (s : State) : s.succeed.statusByte = if s.rkvalid then 0x02 else 0x00 := by
  rw [State.statusByte, State.succeed_errf, State.succeed_rkvalid, State.succeed_vok]
  cases s.rkvalid <;> decide

end Sys2Proof.Machine
end

section
open Sys2Proof Sys2Proof.Machine

/-- Settles O28: the sixteen amounts add up to 28, a whole turn of a half. -/
theorem rotationsReturnEachHalf : Obligations.RotationsReturnEachHalf := by
  unfold Obligations.RotationsReturnEachHalf
  constructor
  · intro v s j _ hs hj
    exact getMsbD_rotl28 v (by omega) hj
  · intro v
    have hturn : shifts.sum = 28 := by decide
    refine BitVec.eq_of_getMsbD_eq fun j hj => ?_
    rw [getMsbD_foldl_rotl28 v shifts_lt hj, hturn, Nat.add_mod_right, Nat.mod_eq_of_lt hj]

/-- Settles O29: PC2's position is a position of the rotated halves, that one a position of PC1's output. -/
theorem subkeyBitsComeFromTheKey : Obligations.SubkeyBitsComeFromTheKey := by
  unfold Obligations.SubkeyBitsComeFromTheKey
  intro K i p hp
  exact getMsbD_keySchedule K i hp

/-- Settles O30: a key's schedule is the schedule of the key with its parity bits cleared. -/
theorem keyScheduleIgnoresParity : Obligations.KeyScheduleIgnoresParity := by
  unfold Obligations.KeyScheduleIgnoresParity
  intro K K' h
  rw [← keySchedule_and_keyBitMask K, h, keySchedule_and_keyBitMask K']

/-- Settles O31: KEYEXP succeeds with the new round keys in place, and the host reads them in the RK window. -/
theorem keyexpLoadsTheSchedule : Obligations.KeyexpLoadsTheSchedule := by
  unfold Obligations.KeyexpLoadsTheSchedule
  intro s
  refine ⟨_, rfl, rfl, ?_, State.hostRead_err _, fun i j hj => ?_⟩
  · exact (State.hostRead_status _).trans (State.statusByte_succeed _)
  · rw [State.hostRead_rkAddr _ i.isLt hj, State.rkBytes_fin, State.succeed_rk]

end

section
/-! The block cipher (spec/42_block_cipher.md R75 to R80). A round is undone by the same round on the swapped halves, so
the network over the subkeys in reverse order undoes the network (R78). Every table moves bits and the round function
xors the expanded half with the subkey, so complementing half and subkey leaves its result as it was, and the network
carries the complement of its halves through (V5 of 95_test_vectors.md). -/

namespace Sys2Proof.Machine

/-! ### The network undone (R78) -/

theorem rounds_append (LR : Half × Half) (ks ks' : List Subkey) :
    rounds LR (ks ++ ks') = rounds (rounds LR ks) ks' := by
  induction ks generalizing LR with
  | nil => rfl
  | cons k ks ih => exact ih _

/-- The rounds in reverse order, from the swapped halves, lead back to the halves of the start, swapped. -/
theorem rounds_reverse_swap (LR : Half × Half) (ks : List Subkey) :
    rounds (rounds LR ks).swap ks.reverse = LR.swap := by
  induction ks generalizing LR with
  | nil => rfl
  | cons k ks ih =>
    obtain ⟨L, R⟩ := LR
    calc rounds (rounds (R, L ^^^ roundF R k) ks).swap (k :: ks).reverse
      _ = rounds (rounds (rounds (R, L ^^^ roundF R k) ks).swap ks.reverse) [k] := by
        rw [List.reverse_cons, rounds_append]
      _ = rounds (L ^^^ roundF R k, R) [k] := by rw [ih]; rfl
      _ = (R, (L ^^^ roundF R k) ^^^ roundF R k) := rfl
      _ = (R, L) := by rw [BitVec.xor_assoc, BitVec.xor_self, BitVec.xor_zero]

/-- A 64-bit value cut into the halves (L, R) of the network (R76). -/
def halves (v : Block) : Half × Half := (v.extractLsb' 32 32, v.extractLsb' 0 32)

theorem halves_append (L R : Half) : halves (L ++ R) = (L, R) :=
  Prod.ext BitVec.extractLsb'_append_eq_left BitVec.extractLsb'_append_eq_right

theorem halves_fst_append_snd (v : Block) : (halves v).1 ++ (halves v).2 = v :=
  (BitVec.extractLsb'_append_extractLsb'_eq_extractLsb' rfl).trans BitVec.extractLsb'_eq_self

theorem network_eq (B : Block) (ks : List Subkey) :
    network B ks = permute 64 ((rounds (halves (permute 64 B tableIP)) ks).2 ++
      (rounds (halves (permute 64 B tableIP)) ks).1) tableFP := rfl

/-- The network's result, sent through IP again, has the halves of the last round, swapped. -/
theorem halves_permute_network (B : Block) (ks : List Subkey) :
    halves (permute 64 (network B ks) tableIP) = (rounds (halves (permute 64 B tableIP)) ks).swap := by
  rw [network_eq, (finalPermutationInvertsInitial _).2, halves_append]
  rfl

theorem network_reverse_network (B : Block) (ks : List Subkey) : network (network B ks) ks.reverse = B := by
  rw [network_eq, halves_permute_network, rounds_reverse_swap, Prod.snd_swap, Prod.fst_swap, halves_fst_append_snd,
    (finalPermutationInvertsInitial _).1]

theorem decryptBlock_encryptBlock (B : Block) (k : RoundKeys) : decryptBlock (encryptBlock B k) k = B :=
  network_reverse_network B k.toList

theorem encryptBlock_decryptBlock (B : Block) (k : RoundKeys) : encryptBlock (decryptBlock B k) k = B := by
  have h := network_reverse_network B k.toList.reverse
  rwa [List.reverse_reverse] at h

/-! ### Complements -/

theorem permute_not {inLen outLen : Nat} (v : BitVec inLen) {T : List Nat} (hlen : T.length = outLen)
    (hT : TablePositions T inLen) : permute outLen (~~~v) T = ~~~permute outLen v T := by
  refine BitVec.eq_of_getMsbD_eq fun i hi => ?_
  have hpos : T.getD i 0 - 1 < inLen := by
    have hmem := hT _ (List.getElem_mem (hlen ▸ hi : i < T.length))
    rw [List.getD_eq_getElem _ _ (hlen ▸ hi)]
    omega
  rw [getMsbD_permute _ hlen hT hi, BitVec.getMsbD_not, BitVec.getMsbD_not, getMsbD_permute v hlen hT hi,
    decide_eq_true hpos, decide_eq_true hi]

theorem tableE_positions : TablePositions tableE 32 := by decide

/-- The complements of the expanded half and of the subkey cancel in the xor (R75). -/
theorem roundF_not (R : Half) (k : Subkey) : roundF (~~~R) (~~~k) = roundF R k := by
  have hxor : permute 48 (~~~R) tableE ^^^ ~~~k = permute 48 R tableE ^^^ k := by
    rw [permute_not (outLen := 48) R rfl tableE_positions, ← BitVec.not_xor_left, ← BitVec.not_xor_right,
      BitVec.not_not]
  rw [roundF, hxor, roundF]

theorem rounds_not (L R : Half) (ks : List Subkey) :
    rounds (~~~L, ~~~R) (ks.map (~~~·)) = (~~~(rounds (L, R) ks).1, ~~~(rounds (L, R) ks).2) := by
  induction ks generalizing L R with
  | nil => rfl
  | cons k ks ih =>
    rw [List.map_cons, rounds, roundF_not, ← BitVec.not_xor_left, ih, rounds]

theorem halves_not (v : Block) : halves (~~~v) = (~~~(halves v).1, ~~~(halves v).2) :=
  calc halves (~~~v)
    _ = halves (~~~((halves v).1 ++ (halves v).2)) := by rw [halves_fst_append_snd]
    _ = (~~~(halves v).1, ~~~(halves v).2) := by rw [BitVec.not_append, halves_append]

theorem network_not (B : Block) (ks : List Subkey) : network (~~~B) (ks.map (~~~·)) = ~~~network B ks := by
  rw [network_eq, permute_not (outLen := 64) B rfl tableIP_positions, halves_not, rounds_not, ← BitVec.not_append,
    permute_not (outLen := 64) _ rfl tableFP_positions, network_eq]

theorem tablePC1_getD_lt : ∀ j < 56, tablePC1.getD j 0 - 1 < 64 := by decide

/-- Each subkey bit is a key bit (R72). -/
theorem getElem_keySchedule_not (K : Block) (i : Fin 16) : (keySchedule (~~~K))[i] = ~~~(keySchedule K)[i] := by
  refine BitVec.eq_of_getMsbD_eq fun p hp => ?_
  have hpos := tablePC1_getD_lt _ (sourcePosition_lt (shifts.take (i.val + 1)).sum (tablePC2.getD p 0 - 1))
  rw [getMsbD_keySchedule _ i hp, BitVec.getMsbD_not, BitVec.getMsbD_not, getMsbD_keySchedule K i hp,
    decide_eq_true hpos, decide_eq_true hp]

theorem keySchedule_not (K : Block) : keySchedule (~~~K) = (keySchedule K).map (~~~·) := by
  refine Vector.ext fun i hi => ?_
  rw [Vector.getElem_map]
  exact getElem_keySchedule_not K ⟨i, hi⟩

/-! ### BLKENC and BLKDEC (R79, R80) -/

theorem exec_blkenc (s : State) : exec .blkenc s = .next (s.blockCommand encryptBlock) := rfl

theorem exec_blkdec (s : State) : exec .blkdec s = .next (s.blockCommand decryptBlock) := rfl

/-- BLKOUT copied to BLKIN, as the host does between two block commands. -/
def State.copyBlkout (s : State) : State := { s with blkin := s.blkout }

section
variable {s : State} (cipher : Block → RoundKeys → Block)

theorem State.blockCommand_of_noKey (hk : s.rkvalid = false) :
    s.blockCommand cipher = { s with errf := true, err := .nokey, vok := false } :=
  if_neg (Bool.eq_false_iff.1 hk)

theorem State.blockCommand_of_rkvalid (hk : s.rkvalid = true) :
    s.blockCommand cipher =
      { s with blkout := cipher s.blkin s.rk, errf := false, err := .none, vok := false } :=
  if_pos hk

theorem State.blkout_blockCommand (hk : s.rkvalid = true) :
    (s.blockCommand cipher).blkout = cipher s.blkin s.rk := by
  rw [State.blockCommand_of_rkvalid cipher hk]

/-- The block command's state is the one before but for BLKOUT and the status of a success, and the host reads BLKOUT
byte by byte. -/
theorem State.blockCommand_result (hk : s.rkvalid = true) :
    s.blockCommand cipher =
      { s with blkout := (s.blockCommand cipher).blkout, errf := false, err := .none, vok := false } ∧
    ∀ j, j < 8 → (s.blockCommand cipher).hostRead (Reg.blkout.addr j) =
      (toBE (cipher s.blkin s.rk).toNat 8).getD j 0 := by
  rw [State.blockCommand_of_rkvalid cipher hk]
  exact ⟨rfl, fun j hj => State.hostRead_regAddr _ .blkout hj⟩

/-- A second block command with the inverse cipher, on the BLKOUT of the first, gives back the first one's BLKIN. -/
theorem State.blockCommand_undo {inverse : Block → RoundKeys → Block} (hk : s.rkvalid = true)
    (hinv : ∀ B k, inverse (cipher B k) k = B) :
    ((s.blockCommand cipher).copyBlkout.blockCommand inverse).blkout = s.blkin := by
  have hfirst := State.blockCommand_of_rkvalid cipher hk
  have hk' : (s.blockCommand cipher).copyBlkout.rkvalid = true := by rw [hfirst]; exact hk
  calc ((s.blockCommand cipher).copyBlkout.blockCommand inverse).blkout
    _ = inverse (s.blockCommand cipher).blkout (s.blockCommand cipher).rk := State.blkout_blockCommand inverse hk'
    _ = inverse (cipher s.blkin s.rk) s.rk := by rw [hfirst]
    _ = s.blkin := hinv s.blkin s.rk

end

end Sys2Proof.Machine
end

section
open Sys2Proof Sys2Proof.Machine

/-- Settles O32: the network over the subkeys in reverse order undoes the network, whichever order comes first. -/
theorem decryptionInvertsEncryption : Obligations.DecryptionInvertsEncryption := by
  unfold Obligations.DecryptionInvertsEncryption
  intro k
  have hdec (B : Block) := decryptBlock_encryptBlock B k
  have henc (B : Block) := encryptBlock_decryptBlock B k
  exact ⟨hdec, henc, Function.bijective_iff_has_inverse.2 ⟨fun B => decryptBlock B k, hdec, henc⟩,
    Function.bijective_iff_has_inverse.2 ⟨fun B => encryptBlock B k, henc, hdec⟩⟩

/-- Settles O33: the complement of the key complements every subkey, and the network carries complements through. -/
theorem encryptionCommutesWithComplement : Obligations.EncryptionCommutesWithComplement := by
  unfold Obligations.EncryptionCommutesWithComplement
  intro K B
  rw [encryptBlock, keySchedule_not, Vector.toList_map, network_not, encryptBlock]

/-- Settles O36: the first command leaves RK and RKVALID as they were, so the second runs the inverse cipher. -/
theorem blockCommandsUndoEachOther : Obligations.BlockCommandsUndoEachOther := by
  unfold Obligations.BlockCommandsUndoEachOther
  intro s hk
  exact ⟨⟨_, _, exec_blkenc s, exec_blkdec _, State.blockCommand_undo _ hk decryptBlock_encryptBlock⟩,
    ⟨_, _, exec_blkdec s, exec_blkenc _, State.blockCommand_undo _ hk encryptBlock_decryptBlock⟩⟩

/-- Settles O34: BLKENC is the block command of `encryptBlock`. -/
theorem blkencEncryptsBlkin : Obligations.BlkencEncryptsBlkin := by
  unfold Obligations.BlkencEncryptsBlkin
  intro s
  constructor
  · intro hk
    exact ⟨_, exec_blkenc s, State.blockCommand_result _ hk⟩
  · intro hk
    rw [exec_blkenc, State.blockCommand_of_noKey _ hk]

/-- Settles O35: BLKDEC is the block command of `decryptBlock`. -/
theorem blkdecDecryptsBlkin : Obligations.BlkdecDecryptsBlkin := by
  unfold Obligations.BlkdecDecryptsBlkin
  intro s
  constructor
  · intro hk
    exact ⟨_, exec_blkdec s, State.blockCommand_result _ hk⟩
  · intro hk
    rw [exec_blkdec, State.blockCommand_of_noKey _ hk]

end

section
/-! The mode functions (spec/43_chaining.md R81 to R88, R95). A byte string of whole blocks is taken apart block by
block (`whole_induction`), so each mode is one equation for the empty string and one for a block in front of the rest.
A string of 8 or more bytes that is no whole number of blocks is a head of whole blocks, one more block and a short
block (`Ragged`), and ciphertext stealing acts on those last two alone. -/

namespace Sys2Proof.Machine

/-! ### Parts of a concatenation (00_scope.md R8) -/

theorem slice_append_add (a s : Bytes) (i j : Nat) : slice (a ++ s) (a.length + i) (a.length + j) = slice s i j := by
  rw [slice, slice, List.take_length_add_append, List.drop_length_add_append]

theorem slice_append_left (a s : Bytes) {j : Nat} (h : a.length = j) : slice (a ++ s) 0 j = a := by
  rw [slice, List.take_left' h, List.drop_zero]

theorem slice_append_right (a s : Bytes) {i j : Nat} (hi : a.length = i) (hj : i + s.length = j) :
    slice (a ++ s) i j = s := by
  subst hi hj
  exact (slice_append_add a s 0 s.length).trans (by rw [slice, List.take_length, List.drop_zero])

theorem blk_append_zero {b : Bytes} (s : Bytes) (hb : b.length = 8) : blk (b ++ s) 0 = b :=
  slice_append_left b s hb

theorem blk_append_succ {b : Bytes} (s : Bytes) (hb : b.length = 8) (j : Nat) : blk (b ++ s) (j + 1) = blk s j := by
  rw [blk, blk, ← slice_append_add b s, hb]
  congr 1 <;> omega

/-! ### Whole blocks -/

@[simp] theorem wholeBlocks_nil : wholeBlocks [] = [] := rfl

theorem wholeBlocks_append {b : Bytes} (s : Bytes) (hb : b.length = 8) : wholeBlocks (b ++ s) = b :: wholeBlocks s := by
  have hlen : (b ++ s).length / 8 = s.length / 8 + 1 := by
    rw [List.length_append]
    omega
  have htail : blk (b ++ s) ∘ Nat.succ = blk s := funext (blk_append_succ s hb)
  rw [wholeBlocks, hlen, List.range_succ_eq_map, List.map_cons, List.map_map, htail, blk_append_zero s hb, wholeBlocks]

/-- A property of the strings of whole blocks holds of them all when it holds of the empty one and a block can be put in
front. -/
theorem whole_induction {P : ∀ s : Bytes, s.length % 8 = 0 → Prop} (nil : P [] rfl)
    (append : ∀ (b s : Bytes) (hb : b.length = 8) (hs : s.length % 8 = 0), P s hs →
      P (b ++ s) (by rw [List.length_append]; omega))
    (s : Bytes) (hs : s.length % 8 = 0) : P s hs := by
  induction hn : s.length / 8 generalizing s with
  | zero =>
    have hnil : s = [] := List.length_eq_zero_iff.1 (by omega)
    subst hnil
    exact nil
  | succ n ih =>
    have hb : (s.take 8).length = 8 := by
      rw [List.length_take]
      omega
    have hd : (s.drop 8).length = s.length - 8 := List.length_drop
    have hrest := append _ _ hb (by omega) (ih (s.drop 8) (by omega) (by omega))
    simpa only [List.take_append_drop] using hrest

/-! ### Xor (R81) -/

theorem xorBytes_append {a b : Bytes} (h : a.length = b.length) (a' b' : Bytes) :
    xorBytes (a ++ a') (b ++ b') = xorBytes a b ++ xorBytes a' b' := List.zipWith_append h

theorem xorBytes_xorBytes_right {a b : Bytes} (h : a.length = b.length) : xorBytes (xorBytes a b) b = a := by
  induction a generalizing b with
  | nil => simp [xorBytes]
  | cons x a ih =>
    cases b with
    | nil => cases h
    | cons y b =>
      have hxy : x ^^^ y ^^^ y = x := by rw [BitVec.xor_assoc, BitVec.xor_self, BitVec.xor_zero]
      exact congrArg₂ List.cons hxy (ih (Nat.succ.inj h))

theorem zeros_xorBytes (b : Bytes) : xorBytes (zeros b.length) b = b := by
  induction b with
  | nil => rfl
  | cons y b ih => exact congrArg₂ List.cons BitVec.zero_xor ih

/-! ### The block cipher on byte strings (R78, R81) -/

theorem d8_e8 (k : RoundKeys) {b : Bytes} (hb : b.length = 8) : d8 k (e8 k b) = b := by
  rw [d8, e8, ofBytes_bytesOf _ rfl, decryptBlock_encryptBlock, bytesOf_ofBytes b (by omega)]

theorem e8_d8 (k : RoundKeys) {b : Bytes} (hb : b.length = 8) : e8 k (d8 k b) = b := by
  rw [e8, d8, ofBytes_bytesOf _ rfl, encryptBlock_decryptBlock, bytesOf_ofBytes b (by omega)]

/-! ### EcbEnc and EcbDec (R83, R84) -/

/-- A function of blocks applied to each whole block by itself: what EcbEnc does to the padded string and EcbDec to its
input. -/
def mapBlocks (f : Bytes → Bytes) (s : Bytes) : Bytes := ((wholeBlocks s).map f).flatten

/-- The string with the zero bytes that fill its last block (R83). -/
def zeroPad (p : Bytes) : Bytes := p ++ zeros (8 * ceil8 p.length - p.length)

theorem ecbEnc_eq (k : RoundKeys) (p : Bytes) : ecbEnc k p = mapBlocks (e8 k) (zeroPad p) := rfl

theorem ecbDec_eq (k : RoundKeys) (c : Bytes) : ecbDec k c = mapBlocks (d8 k) c := rfl

theorem length_zeroPad (p : Bytes) : (zeroPad p).length = 8 * ceil8 p.length := by
  rw [zeroPad, List.length_append, length_zeros, ceil8]
  omega

@[simp] theorem mapBlocks_nil (f : Bytes → Bytes) : mapBlocks f [] = [] := rfl

theorem mapBlocks_append (f : Bytes → Bytes) {b : Bytes} (s : Bytes) (hb : b.length = 8) :
    mapBlocks f (b ++ s) = f b ++ mapBlocks f s := by
  rw [mapBlocks, wholeBlocks_append s hb, List.map_cons, List.flatten_cons, mapBlocks]

theorem blk_mapBlocks {f : Bytes → Bytes} (hf : ∀ b, (f b).length = 8) {s : Bytes} (hs : s.length % 8 = 0) {j : Nat}
    (hj : j < s.length / 8) : blk (mapBlocks f s) j = f (blk s j) := by
  induction s, hs using whole_induction generalizing j with
  | nil => cases hj
  | append b s hb hs ih =>
    rw [mapBlocks_append f s hb]
    cases j with
    | zero => rw [blk_append_zero _ (hf b), blk_append_zero s hb]
    | succ j =>
      rw [List.length_append] at hj
      rw [blk_append_succ _ (hf b), blk_append_succ s hb, ih (by omega)]

theorem mapBlocks_mapBlocks {f g : Bytes → Bytes} (hf : ∀ b, (f b).length = 8) (hgf : ∀ b, b.length = 8 → g (f b) = b)
    {s : Bytes} (hs : s.length % 8 = 0) : mapBlocks g (mapBlocks f s) = s := by
  induction s, hs using whole_induction with
  | nil => rw [mapBlocks_nil, mapBlocks_nil]
  | append b s hb hs ih => rw [mapBlocks_append f s hb, mapBlocks_append g _ (hf b), hgf b hb, ih]

/-! ### CbcEnc and CbcDec (R85, R86) -/

@[simp] theorem cbcEnc_nil (k : RoundKeys) (iv : Bytes) : cbcEnc k iv [] = [] := rfl

@[simp] theorem cbcDec_nil (k : RoundKeys) (iv : Bytes) : cbcDec k iv [] = [] := rfl

theorem cbcEnc_append (k : RoundKeys) (iv : Bytes) {b : Bytes} (s : Bytes) (hb : b.length = 8) :
    cbcEnc k iv (b ++ s) = e8 k (xorBytes b iv) ++ cbcEnc k (e8 k (xorBytes b iv)) s := by
  rw [cbcEnc, wholeBlocks_append s hb, cbcEncBlocks, cbcEnc]

theorem cbcDec_append (k : RoundKeys) (iv : Bytes) {b : Bytes} (s : Bytes) (hb : b.length = 8) :
    cbcDec k iv (b ++ s) = xorBytes (d8 k b) iv ++ cbcDec k b s := by
  rw [cbcDec, wholeBlocks_append s hb, cbcDecBlocks, cbcDec]

/-- The chain value block j meets, when `b` stands before the rest `s`. -/
theorem blk_append_eq_ite {b : Bytes} (s : Bytes) (hb : b.length = 8) (j : Nat) :
    blk (b ++ s) j = if j = 0 then b else blk s (j - 1) := by
  cases j with
  | zero => exact blk_append_zero s hb
  | succ j => exact blk_append_succ s hb j

theorem blk_cbcEnc (k : RoundKeys) (iv : Bytes) {p : Bytes} (hp : p.length % 8 = 0) {j : Nat}
    (hj : j < p.length / 8) :
    blk (cbcEnc k iv p) j = e8 k (xorBytes (blk p j) (if j = 0 then iv else blk (cbcEnc k iv p) (j - 1))) := by
  induction p, hp using whole_induction generalizing iv j with
  | nil => cases hj
  | append b s hb hs ih =>
    have hc := length_e8 k (xorBytes b iv)
    rw [cbcEnc_append k iv s hb]
    cases j with
    | zero => rw [blk_append_zero _ hc, blk_append_zero s hb, if_pos rfl]
    | succ j =>
      rw [List.length_append] at hj
      rw [blk_append_succ _ hc, blk_append_succ s hb, if_neg j.succ_ne_zero, Nat.add_sub_cancel,
        blk_append_eq_ite _ hc, ih _ (by omega)]

theorem blk_cbcDec (k : RoundKeys) {iv c : Bytes} (hiv : iv.length = 8) (hc : c.length % 8 = 0) {j : Nat}
    (hj : j < c.length / 8) :
    blk (cbcDec k iv c) j = xorBytes (d8 k (blk c j)) (if j = 0 then iv else blk c (j - 1)) := by
  induction c, hc using whole_induction generalizing iv j with
  | nil => cases hj
  | append b s hb hs ih =>
    have ho : (xorBytes (d8 k b) iv).length = 8 := by rw [length_xorBytes, length_d8, hiv, Nat.min_self]
    rw [cbcDec_append k iv s hb]
    cases j with
    | zero => rw [blk_append_zero _ ho, blk_append_zero s hb, if_pos rfl]
    | succ j =>
      rw [List.length_append] at hj
      rw [blk_append_succ _ ho, blk_append_succ s hb, if_neg j.succ_ne_zero, Nat.add_sub_cancel,
        blk_append_eq_ite s hb, ih hb (by omega)]

theorem cbcDec_cbcEnc (k : RoundKeys) {iv p : Bytes} (hiv : iv.length = 8) (hp : p.length % 8 = 0) :
    cbcDec k iv (cbcEnc k iv p) = p := by
  induction p, hp using whole_induction generalizing iv with
  | nil => rw [cbcEnc_nil, cbcDec_nil]
  | append b s hb hs ih =>
    have hx : (xorBytes b iv).length = 8 := by rw [length_xorBytes, hb, hiv, Nat.min_self]
    rw [cbcEnc_append k iv s hb, cbcDec_append k iv _ (length_e8 k _), d8_e8 k hx,
      xorBytes_xorBytes_right (hb.trans hiv.symm), ih (length_e8 k _)]

theorem cbcEnc_cbcDec (k : RoundKeys) {iv c : Bytes} (hiv : iv.length = 8) (hc : c.length % 8 = 0) :
    cbcEnc k iv (cbcDec k iv c) = c := by
  induction c, hc using whole_induction generalizing iv with
  | nil => rw [cbcDec_nil, cbcEnc_nil]
  | append b s hb hs ih =>
    have ho : (xorBytes (d8 k b) iv).length = 8 := by rw [length_xorBytes, length_d8, hiv, Nat.min_self]
    rw [cbcDec_append k iv s hb, cbcEnc_append k iv _ ho, xorBytes_xorBytes_right ((length_d8 k b).trans hiv.symm),
      e8_d8 k hb, ih hb]

theorem ceil8_eq (n : Nat) : (n + 7) / 8 = ceil8 n := rfl

/-! ### Strings that end in a short block (R87, R88) -/

/-- `a ++ b ++ t` is a string of whole blocks `a`, one more block `b` and a last block `t` of 1 to 7 bytes. -/
structure Ragged (a b t : Bytes) : Prop where
  whole : a.length % 8 = 0
  block : b.length = 8
  pos : 0 < t.length
  lt : t.length < 8

theorem exists_ragged {p : Bytes} (h8 : 8 ≤ p.length) (h : p.length % 8 ≠ 0) :
    ∃ a b t : Bytes, p = a ++ b ++ t ∧ Ragged a b t := by
  refine ⟨p.take (8 * (p.length / 8 - 1)), (p.drop (8 * (p.length / 8 - 1))).take 8,
    (p.drop (8 * (p.length / 8 - 1))).drop 8, ?_, ?_, ?_, ?_, ?_⟩
  · rw [List.append_assoc, List.take_append_drop, List.take_append_drop]
  all_goals
    simp only [List.length_take, List.length_drop]
    omega

section
variable {a b t : Bytes} (h : Ragged a b t)
include h

theorem Ragged.length_mod : (a ++ b ++ t).length % 8 = t.length := by
  obtain ⟨ha, hb, h0, h7⟩ := h
  simp only [List.length_append]
  omega

/-- The number of blocks, the short one included: m of R87. -/
theorem Ragged.ceil8_length : ceil8 (a ++ b ++ t).length = a.length / 8 + 2 := by
  obtain ⟨ha, hb, h0, h7⟩ := h
  simp only [ceil8, List.length_append]
  omega

theorem Ragged.slice_whole : slice (a ++ b ++ t) 0 (8 * (ceil8 (a ++ b ++ t).length - 2)) = a := by
  have ha := h.whole
  rw [h.ceil8_length, List.append_assoc]
  exact slice_append_left a _ (by omega)

theorem Ragged.blk_block : blk (a ++ b ++ t) (ceil8 (a ++ b ++ t).length - 2) = b := by
  have hi : 8 * (a.length / 8 + 2 - 2) = a.length + 0 := by have ha := h.whole; omega
  rw [h.ceil8_length, blk, hi, List.append_assoc, Nat.add_assoc, slice_append_add]
  exact slice_append_left b t h.block

theorem Ragged.slice_short : slice (a ++ b ++ t) (8 * (ceil8 (a ++ b ++ t).length - 1)) (a ++ b ++ t).length = t := by
  have ha := h.whole
  have hb := h.block
  refine slice_append_right (a ++ b) t ?_ ?_
  all_goals
    rw [h.ceil8_length]
    simp only [List.length_append]
    omega

end

/-- The chain value after the whole blocks `a`: their last block, or the IV when there is none (R87, 90_conflicts.md
C3). -/
def chainAfter (iv a : Bytes) : Bytes := if a.length = 0 then iv else slice a (a.length - 8) a.length

theorem length_chainAfter {iv a : Bytes} (hiv : iv.length = 8) (ha : a.length % 8 = 0) :
    (chainAfter iv a).length = 8 := by
  unfold chainAfter
  split
  · exact hiv
  · rw [length_slice]
    omega

/-- Block m - 3 of a ragged string is the last of its whole blocks. -/
theorem Ragged.ite_eq_chainAfter {a b t : Bytes} (h : Ragged a b t) (iv : Bytes) {n : Nat}
    (hn : (a ++ b ++ t).length = n) :
    (if (n + 7) / 8 = 2 then iv else blk (a ++ b ++ t) ((n + 7) / 8 - 3)) = chainAfter iv a := by
  subst hn
  have ha := h.whole
  rw [ceil8_eq, h.ceil8_length, chainAfter]
  by_cases h0 : a.length = 0
  · rw [if_pos (by omega), if_pos h0]
  · have hi : 8 * (a.length / 8 + 2 - 3) = a.length - 8 := by omega
    have hj : a.length - 8 + 8 = a.length := by omega
    rw [if_neg (by omega), if_neg h0, blk, hi, hj, List.append_assoc, slice, List.take_left, slice, List.take_length]

/-! ### Ciphertext stealing on the last two blocks (R87, R88) -/

/-- What CtsEnc makes of the last whole block and the short block: Cn, and the first bytes of C'. -/
def stealEnc (k : RoundKeys) (chain b t : Bytes) : Bytes × Bytes :=
  let cp := e8 k (xorBytes b chain)
  (e8 k (xorBytes (t ++ zeros (8 - t.length)) cp), slice cp 0 t.length)

/-- What CtsDec makes of Cn and the short block. -/
def stealDec (k : RoundKeys) (chain b t : Bytes) : Bytes × Bytes :=
  let dn := d8 k b
  (xorBytes (d8 k (t ++ slice dn t.length 8)) chain, xorBytes (slice dn 0 t.length) t)

theorem ctsEnc_ragged (k : RoundKeys) (iv : Bytes) {a b t : Bytes} (h : Ragged a b t) :
    ctsEnc k iv (a ++ b ++ t) = cbcEnc k iv a ++ (stealEnc k (chainAfter iv (cbcEnc k iv a)) b t).1 ++
      (stealEnc k (chainAfter iv (cbcEnc k iv a)) b t).2 := by
  have hchain : (if ceil8 (a ++ b ++ t).length > 2 then
      slice (cbcEnc k iv a) ((cbcEnc k iv a).length - 8) (cbcEnc k iv a).length else iv) =
      chainAfter iv (cbcEnc k iv a) := by
    have ha := h.whole
    rw [h.ceil8_length, chainAfter, length_cbcEnc k iv ha, ← ite_not]
    exact if_congr (by omega) rfl rfl
  simp only [ctsEnc, h.slice_whole, h.blk_block, h.slice_short, h.length_mod, if_neg h.pos.ne', hchain]
  rfl

theorem ctsDec_ragged (k : RoundKeys) (iv : Bytes) {a b t : Bytes} (h : Ragged a b t) :
    ctsDec k iv (a ++ b ++ t) = cbcDec k iv a ++ (stealDec k (chainAfter iv a) b t).1 ++
      (stealDec k (chainAfter iv a) b t).2 := by
  have hchain : (if ceil8 (a ++ b ++ t).length > 2 then blk (a ++ b ++ t) (ceil8 (a ++ b ++ t).length - 3) else iv) =
      chainAfter iv a := by
    rw [← h.ite_eq_chainAfter iv rfl, ← ite_not]
    refine if_congr ?_ rfl rfl
    rw [ceil8_eq, h.ceil8_length]
    omega
  simp only [ctsDec, h.slice_whole, h.blk_block, h.slice_short, h.length_mod, if_neg h.pos.ne', hchain]
  rfl

theorem ctsEnc_of_whole (k : RoundKeys) (iv : Bytes) {p : Bytes} (h : p.length % 8 = 0) :
    ctsEnc k iv p = cbcEnc k iv p := if_pos h

theorem ctsDec_of_whole (k : RoundKeys) (iv : Bytes) {c : Bytes} (h : c.length % 8 = 0) :
    ctsDec k iv c = cbcDec k iv c := if_pos h

theorem Ragged.cbcEnc_stealEnc {a b t : Bytes} (h : Ragged a b t) (k : RoundKeys) (iv chain : Bytes) :
    Ragged (cbcEnc k iv a) (stealEnc k chain b t).1 (stealEnc k chain b t).2 := by
  obtain ⟨ha, hb, h0, h7⟩ := h
  refine ⟨?_, length_e8 k _, ?_, ?_⟩
  · rw [length_cbcEnc k iv ha, ha]
  all_goals
    simp only [stealEnc, length_slice, length_e8]
    omega

theorem Ragged.cbcDec_stealDec {a b t : Bytes} (h : Ragged a b t) (k : RoundKeys) {iv chain : Bytes}
    (hiv : iv.length = 8) (hc : chain.length = 8) : Ragged (cbcDec k iv a) (stealDec k chain b t).1 (stealDec k chain b t).2 := by
  obtain ⟨ha, hb, h0, h7⟩ := h
  refine ⟨?_, ?_, ?_, ?_⟩
  · rw [length_cbcDec k hiv ha, ha]
  all_goals
    simp only [stealDec, length_xorBytes, length_slice, length_d8]
    omega

/-- Under a short block padded with zeros, xor changes only the bytes the short block reaches: the rest of the block is
"borrowed" unchanged (R88). -/
theorem xorBytes_padded {t u v : Bytes} (hu : t.length = u.length) (huv : (u ++ v).length = 8) :
    xorBytes (t ++ zeros (8 - t.length)) (u ++ v) = xorBytes t u ++ v := by
  have hv : 8 - t.length = v.length := by
    rw [List.length_append] at huv
    omega
  rw [xorBytes_append hu, hv, zeros_xorBytes]

theorem stealDec_stealEnc (k : RoundKeys) {chain b t : Bytes} (hc : chain.length = 8) (hb : b.length = 8)
    (ht : t.length < 8) :
    stealDec k chain (stealEnc k chain b t).1 (stealEnc k chain b t).2 = (b, t) := by
  have hx : (xorBytes b chain).length = 8 := by rw [length_xorBytes, hb, hc, Nat.min_self]
  have hd := d8_e8 k hx
  have hl := length_e8 k (xorBytes b chain)
  obtain ⟨u, v, huv, hu⟩ : ∃ u v : Bytes, e8 k (xorBytes b chain) = u ++ v ∧ t.length = u.length :=
    ⟨_, _, (List.take_append_drop t.length _).symm, by rw [List.length_take, hl]; omega⟩
  rw [huv] at hd hl
  have hxl : (xorBytes t u).length = u.length := by rw [length_xorBytes, hu, Nat.min_self]
  have h8 : (xorBytes t u ++ v).length = 8 := by rw [List.length_append, hxl, ← List.length_append, hl]
  have hs : slice (u ++ v) 0 t.length = u := slice_append_left u v hu.symm
  have hs0 : slice (xorBytes t u ++ v) 0 u.length = xorBytes t u := slice_append_left _ v hxl
  have hs8 : slice (xorBytes t u ++ v) u.length 8 = v :=
    slice_append_right _ v hxl (by rw [← hl, List.length_append])
  simp only [stealEnc, stealDec, huv, xorBytes_padded hu hl, d8_e8 k h8, hs, hs0, hs8, hd,
    xorBytes_xorBytes_right (hb.trans hc.symm), xorBytes_xorBytes_right hu]

theorem stealEnc_stealDec (k : RoundKeys) {chain b t : Bytes} (hc : chain.length = 8) (hb : b.length = 8)
    (ht : t.length < 8) :
    stealEnc k chain (stealDec k chain b t).1 (stealDec k chain b t).2 = (b, t) := by
  have he := e8_d8 k hb
  have hl := length_d8 k b
  obtain ⟨u, v, huv, hu⟩ : ∃ u v : Bytes, d8 k b = u ++ v ∧ u.length = t.length :=
    ⟨_, _, (List.take_append_drop t.length _).symm, by rw [List.length_take, hl]; omega⟩
  rw [huv] at he hl
  have hxl : (xorBytes u t).length = t.length := by rw [length_xorBytes, hu, Nat.min_self]
  have h8 : (t ++ v).length = 8 := by rw [List.length_append, ← hu, ← List.length_append, hl]
  have hs0 : slice (u ++ v) 0 t.length = u := slice_append_left u v hu
  have hs8 : slice (u ++ v) t.length 8 = v := slice_append_right u v hu (by rw [← h8, List.length_append])
  have hst : slice (t ++ v) 0 t.length = t := slice_append_left t v rfl
  have hpad := xorBytes_padded hxl h8
  rw [hxl] at hpad
  simp only [stealEnc, stealDec, huv, hs0, hs8, xorBytes_xorBytes_right ((length_d8 k _).trans hc.symm), e8_d8 k h8,
    hxl, hpad, xorBytes_xorBytes_right hu, he, hst]

theorem ctsDec_ctsEnc (k : RoundKeys) {iv p : Bytes} (hiv : iv.length = 8) (hp : 8 ≤ p.length) :
    ctsDec k iv (ctsEnc k iv p) = p := by
  by_cases h0 : p.length % 8 = 0
  · have hc : (cbcEnc k iv p).length % 8 = 0 := by rw [length_cbcEnc k iv h0, h0]
    rw [ctsEnc_of_whole k iv h0, ctsDec_of_whole k iv hc, cbcDec_cbcEnc k hiv h0]
  · obtain ⟨a, b, t, rfl, h⟩ := exists_ragged hp h0
    have hc := h.cbcEnc_stealEnc k iv (chainAfter iv (cbcEnc k iv a))
    rw [ctsEnc_ragged k iv h, ctsDec_ragged k iv hc, cbcDec_cbcEnc k hiv h.whole,
      stealDec_stealEnc k (length_chainAfter hiv hc.whole) h.block h.lt]

theorem ctsEnc_ctsDec (k : RoundKeys) {iv c : Bytes} (hiv : iv.length = 8) (hc : 8 ≤ c.length) :
    ctsEnc k iv (ctsDec k iv c) = c := by
  by_cases h0 : c.length % 8 = 0
  · have hp : (cbcDec k iv c).length % 8 = 0 := by rw [length_cbcDec k hiv h0, h0]
    rw [ctsDec_of_whole k iv h0, ctsEnc_of_whole k iv hp, cbcEnc_cbcDec k hiv h0]
  · obtain ⟨a, b, t, rfl, h⟩ := exists_ragged hc h0
    have hchain := length_chainAfter hiv h.whole
    rw [ctsDec_ragged k iv h, ctsEnc_ragged k iv (h.cbcDec_stealDec k hiv hchain), cbcEnc_cbcDec k hiv h.whole,
      stealEnc_stealDec k hchain h.block h.lt]

end Sys2Proof.Machine
end

section
open Sys2Proof Sys2Proof.Machine

/-- Settles O37: EcbEnc is E8 applied to each block of the padded string. -/
theorem ecbEncWorksBlockwise : Obligations.EcbEncWorksBlockwise := by
  unfold Obligations.EcbEncWorksBlockwise
  intro k p _
  have hlen := length_zeroPad p
  exact ⟨length_ecbEnc k p, fun j hj =>
    blk_mapBlocks (length_e8 k) (s := zeroPad p) (by omega) (by rw [hlen, ceil8]; omega)⟩

/-- Settles O38: EcbDec is D8 applied to each block, which undoes E8 on each block of the padded string. -/
theorem ecbDecKeepsThePadding : Obligations.EcbDecKeepsThePadding := by
  unfold Obligations.EcbDecKeepsThePadding
  constructor
  · intro k c _ hc
    exact ⟨length_ecbDec k hc, fun j hj => blk_mapBlocks (length_d8 k) hc hj⟩
  · intro k p _
    have hlen := length_zeroPad p
    exact mapBlocks_mapBlocks (length_e8 k) (fun b hb => d8_e8 k hb) (s := zeroPad p) (by omega)

/-- Settles O39, by induction on the blocks of the plaintext. -/
theorem cbcEncChainsOnCiphertext : Obligations.CbcEncChainsOnCiphertext := by
  unfold Obligations.CbcEncChainsOnCiphertext
  intro k iv p _ hp
  exact ⟨length_cbcEnc k iv hp, fun j hj => blk_cbcEnc k iv hp hj⟩

/-- Settles O40, by induction on the blocks of the ciphertext. -/
theorem cbcDecChainsOnInput : Obligations.CbcDecChainsOnInput := by
  unfold Obligations.CbcDecChainsOnInput
  intro k iv c hiv hc
  exact ⟨length_cbcDec k hiv hc, fun j hj => blk_cbcDec k hiv hc hj⟩

/-- Settles O43, by induction on the blocks. -/
theorem cbcModesAreInverse : Obligations.CbcModesAreInverse := by
  unfold Obligations.CbcModesAreInverse
  intro k iv p hiv hp
  exact ⟨cbcDec_cbcEnc k hiv hp, cbcEnc_cbcDec k hiv hp⟩

/-- Settles O44: the head is CBC, and stealing on the last two blocks is inverse to rebuilding the stolen block. -/
theorem ctsModesAreInverse : Obligations.CtsModesAreInverse := by
  unfold Obligations.CtsModesAreInverse
  intro k iv p hiv hp
  exact ⟨ctsDec_ctsEnc k hiv hp, ctsEnc_ctsDec k hiv hp⟩

/-- Settles O41: input and output of CtsEnc fall into the same three parts. -/
theorem ctsEncStealsCiphertext : Obligations.CtsEncStealsCiphertext := by
  unfold Obligations.CtsEncStealsCiphertext
  intro k iv p hiv hp
  refine ⟨ctsEnc_of_whole k iv, fun h0 => ?_⟩
  obtain ⟨a, b, t, rfl, h⟩ := exists_ragged hp h0
  have hout := h.cbcEnc_stealEnc k iv (chainAfter iv (cbcEnc k iv a))
  have hlen := length_ctsEnc k iv hp
  rw [ctsEnc_ragged k iv h] at hlen
  dsimp only
  rw [ctsEnc_ragged k iv h, hout.ite_eq_chainAfter iv hlen]
  simp only [ceil8_eq]
  rw [h.slice_whole, h.blk_block, h.slice_short, h.length_mod, ← hlen, hout.slice_whole, hout.blk_block,
    hout.slice_short]
  exact ⟨rfl, rfl, rfl, rfl⟩

/-- Settles O42: input and output of CtsDec fall into the same three parts. -/
theorem ctsDecRebuildsTheStolenBlock : Obligations.CtsDecRebuildsTheStolenBlock := by
  unfold Obligations.CtsDecRebuildsTheStolenBlock
  intro k iv c hiv hc
  refine ⟨ctsDec_of_whole k iv, fun h0 => ?_⟩
  obtain ⟨a, b, t, rfl, h⟩ := exists_ragged hc h0
  have hout := h.cbcDec_stealDec k hiv (length_chainAfter hiv h.whole)
  have hlen := length_ctsDec k hiv hc
  rw [ctsDec_ragged k iv h] at hlen
  dsimp only
  rw [ctsDec_ragged k iv h, h.ite_eq_chainAfter iv rfl]
  simp only [ceil8_eq]
  rw [h.slice_whole, h.blk_block, h.slice_short, h.length_mod, ← hlen, hout.slice_whole, hout.blk_block,
    hout.slice_short]
  exact ⟨rfl, rfl, rfl, rfl⟩

end

section
/-! The CMC commands (spec/43_chaining.md R82, R89 to R95). Each command is one template over its mode function, so the
outcome is said once for the template (`State.cmcCommand_outcome`) and each command adds its refused lengths and the
length of its output. -/

namespace Sys2Proof.Machine

theorem exec_ecbenc (s : State) : exec .ecbenc s = .next (s.cmcCommand .ecb .enc (ecbEnc s.rk)) := rfl

theorem exec_ecbdec (s : State) : exec .ecbdec s = .next (s.cmcCommand .ecb .dec (ecbDec s.rk)) := rfl

theorem exec_cbcenc (s : State) :
    exec .cbcenc s = .next (s.cmcCommand .cbc .enc (cbcEnc s.rk (toBE s.iv.toNat 8))) := rfl

theorem exec_cbcdec (s : State) :
    exec .cbcdec s = .next (s.cmcCommand .cbc .dec (cbcDec s.rk (toBE s.iv.toNat 8))) := rfl

theorem exec_ctsenc (s : State) :
    exec .ctsenc s = .next (s.cmcCommand .cts .enc (ctsEnc s.rk (toBE s.iv.toNat 8))) := rfl

theorem exec_ctsdec (s : State) :
    exec .ctsdec s = .next (s.cmcCommand .cts .dec (ctsDec s.rk (toBE s.iv.toNat 8))) := rfl

@[simp] theorem State.length_cmcInput (s : State) : s.cmcInput.length = s.len.toNat := s.length_memRead _ _

/-! ### The checks, one by one (R82) -/

section
variable {s : State} {m : CmcMode} {dir : CmcDir}

theorem State.cmcChecks_of_noKey (hk : s.rkvalid = false) : s.cmcChecks m dir = .error .nokey := if_pos hk

section
variable (hk : s.rkvalid = true)
include hk

theorem State.cmcChecks_of_badLen (hl : cmcBadLen m dir s.len.toNat = true) : s.cmcChecks m dir = .error .len := by
  rw [State.cmcChecks, if_neg (by simp [hk]), if_pos hl]

variable (hl : cmcBadLen m dir s.len.toNat = false)
include hl

theorem State.cmcChecks_of_outOfBounds (hb : s.cfg.bufBytes < s.src.toNat + s.len.toNat ∨
    s.cfg.bufBytes < s.dst.toNat + cmcOutLen m dir s.len.toNat) : s.cmcChecks m dir = .error .bounds := by
  rw [State.cmcChecks, if_neg (by simp [hk]), if_neg (by simp [hl]), if_pos hb]

variable (hs : s.src.toNat + s.len.toNat ≤ s.cfg.bufBytes)
  (hd : s.dst.toNat + cmcOutLen m dir s.len.toNat ≤ s.cfg.bufBytes)
include hs hd

theorem State.cmcChecks_of_overlapping (hne : s.src ≠ s.dst)
    (h1 : s.src.toNat < s.dst.toNat + cmcOutLen m dir s.len.toNat) (h2 : s.dst.toNat < s.src.toNat + s.len.toNat) :
    s.cmcChecks m dir = .error .overlap := by
  have hne' : s.src.toNat ≠ s.dst.toNat := fun h => hne (BitVec.eq_of_toNat_eq h)
  rw [State.cmcChecks, if_neg (by simp [hk]), if_neg (by simp [hl]), if_neg (by omega), if_pos ⟨hne', h1, h2⟩]

end

theorem State.cmcChecks_of_accepted (hk : s.rkvalid = true) (hl : cmcBadLen m dir s.len.toNat = false)
    (hr : s.RangesAccepted s.len.toNat (cmcOutLen m dir s.len.toNat)) :
    s.cmcChecks m dir = .ok ⟨s.src.toNat, s.dst.toNat, s.len.toNat, cmcOutLen m dir s.len.toNat⟩ := by
  obtain ⟨hs, hd, ha⟩ := hr
  have happart : ¬ (s.src.toNat ≠ s.dst.toNat ∧ s.src.toNat < s.dst.toNat + cmcOutLen m dir s.len.toNat ∧
      s.dst.toNat < s.src.toNat + s.len.toNat) := by
    rintro ⟨hne, h1, h2⟩
    rcases ha with ha | ha
    · exact hne (congrArg BitVec.toNat ha)
    · omega
  rw [State.cmcChecks, if_neg (by simp [hk]), if_neg (by simp [hl]), if_neg (by omega), if_neg happart]

/-! ### The template (43_chaining.md section 3) -/

/-- The output of a CMC command written at DST, with OUTLEN and the status of a success. -/
def State.cmcWritten (s : State) (out : Bytes) : State :=
  { s.memWrite s.dst.toNat out with outlen := BitVec.ofNat 16 out.length }.succeed

theorem State.wroteOutput_cmcWritten (s : State) {out : Bytes} (h : s.dst.toNat + out.length ≤ s.cfg.bufBytes) :
    WroteOutput s out (s.cmcWritten out) where
  frame := rfl
  length := by
    have hmax := s.cfg.buf_max
    exact BitVec.toNat_ofNat .. ▸ Nat.mod_eq_of_lt (by omega)
  written := fun _ hj => s.bufByte_memWrite_inside _ out hj
  kept := fun _ ha => s.bufByte_memWrite_outside _ out ha

theorem State.cmcCommand_of_error {c : ErrCode} (f : Bytes → Bytes) (h : s.cmcChecks m dir = .error c) :
    s.cmcCommand m dir f = FailedWith s c := by
  rw [State.cmcCommand, h]
  rfl

theorem State.cmcCommand_of_accepted (f : Bytes → Bytes) (hk : s.rkvalid = true)
    (hl : cmcBadLen m dir s.len.toNat = false)
    (hr : s.RangesAccepted s.len.toNat (cmcOutLen m dir s.len.toNat))
    (hf : (f s.cmcInput).length = cmcOutLen m dir s.len.toNat) :
    s.cmcCommand m dir f = s.cmcWritten (f s.cmcInput) := by
  rw [State.cmcCommand, State.cmcChecks_of_accepted hk hl hr, State.cmcWritten, hf]
  rfl

/-- The first failing check decides; past all four the output is written. -/
theorem State.cmcCommand_outcome (s : State) (m : CmcMode) (dir : CmcDir) (f : Bytes → Bytes) {badLen : Prop}
    (hbad : cmcBadLen m dir s.len.toNat = true ↔ badLen)
    (hf : ¬ badLen → (f s.cmcInput).length = cmcOutLen m dir s.len.toNat) :
    CmcOutcome s badLen (cmcOutLen m dir s.len.toNat) (f s.cmcInput) (s.cmcCommand m dir f) := by
  have hgood (hb : ¬ badLen) : cmcBadLen m dir s.len.toNat = false := Bool.eq_false_iff.2 (mt hbad.1 hb)
  constructor
  case noKey => exact fun hk => State.cmcCommand_of_error f (State.cmcChecks_of_noKey hk)
  case badLength => exact fun hk hb => State.cmcCommand_of_error f (State.cmcChecks_of_badLen hk (hbad.2 hb))
  case outOfBounds =>
    exact fun hk hb ho => State.cmcCommand_of_error f (State.cmcChecks_of_outOfBounds hk (hgood hb) ho)
  case overlapping =>
    exact fun hk hb hs hd hne h1 h2 =>
      State.cmcCommand_of_error f (State.cmcChecks_of_overlapping hk (hgood hb) hs hd hne h1 h2)
  case success =>
    intro hk hb hr
    have hlen := hf hb
    rw [State.cmcCommand_of_accepted f hk (hgood hb) hr hlen]
    exact ⟨s.wroteOutput_cmcWritten (hlen ▸ hr.dstFits), hlen⟩

/-- Commands whose checks agree and whose functions agree on the input have the same result. -/
theorem State.cmcCommand_congr {m' : CmcMode} {dir' : CmcDir} {f g : Bytes → Bytes}
    (hc : s.cmcChecks m dir = s.cmcChecks m' dir') (hfg : f s.cmcInput = g s.cmcInput) :
    s.cmcCommand m dir f = s.cmcCommand m' dir' g := by
  rcases s.cmcCommand_cases m dir f with ⟨c, _, herr, _⟩ | ⟨hok, hres⟩
  · rw [State.cmcCommand_of_error f herr, State.cmcCommand_of_error g (hc ▸ herr)]
  · rw [State.cmcCommand, State.cmcCommand, ← hc, hok]
    exact congrArg (fun out => State.succeed { s.memWrite s.dst.toNat out with outlen := _ }) hfg

end

/-! ### Which lengths are refused (R82) -/

theorem cmcBadLen_ecb_enc (n : Nat) : cmcBadLen .ecb .enc n = true ↔ n = 0 := beq_iff_eq

theorem cmcBadLen_ecb_dec (n : Nat) : cmcBadLen .ecb .dec n = true ↔ n = 0 ∨ n % 8 ≠ 0 := by
  rw [cmcBadLen, Bool.or_eq_true, beq_iff_eq, bne_iff_ne]

theorem cmcBadLen_cbc (dir : CmcDir) (n : Nat) : cmcBadLen .cbc dir n = true ↔ n = 0 ∨ n % 8 ≠ 0 := by
  cases dir <;> exact cmcBadLen_ecb_dec n

/-- The check for 0 is part of the check for a length below 8 (R93). -/
theorem cmcBadLen_cts (dir : CmcDir) (n : Nat) : cmcBadLen .cts dir n = true ↔ n < 8 := by
  have hor : (n == 0 || decide (n < 8)) = true ↔ n < 8 := by
    rw [Bool.or_eq_true, beq_iff_eq, decide_eq_true_eq]
    omega
  cases dir <;> exact hor

/-- On whole blocks a length below 8 is 0, which every mode refuses. -/
theorem cmcBadLen_cts_eq_cbc (dir : CmcDir) {n : Nat} (h : n % 8 = 0) :
    cmcBadLen .cts dir n = cmcBadLen .cbc dir n := by
  rw [Bool.eq_iff_iff, cmcBadLen_cts, cmcBadLen_cbc]
  omega

theorem State.cmcChecks_cts_eq_cbc (s : State) (dir : CmcDir) (h : s.len.toNat % 8 = 0) :
    s.cmcChecks .cts dir = s.cmcChecks .cbc dir := by
  have hout : cmcOutLen .cts dir s.len.toNat = cmcOutLen .cbc dir s.len.toNat := by cases dir <;> rfl
  rw [State.cmcChecks, State.cmcChecks, cmcBadLen_cts_eq_cbc dir h, hout]

/-! ### Two commands in place -/

theorem WroteOutput.memRead {s t : State} {out : Bytes} (h : WroteOutput s out t) :
    t.memRead s.dst.toNat out.length = out := by
  refine List.ext_getElem (by rw [State.length_memRead]) fun j _ hj => ?_
  simp only [State.memRead, List.getElem_map, List.getElem_range]
  rw [h.written j hj, List.getD_eq_getElem _ _ hj]

/-- The registers and parameters the next CMC command reads are as before. -/
theorem WroteOutput.kept_registers {s t : State} {out : Bytes} (h : WroteOutput s out t) :
    t.cfg = s.cfg ∧ t.rkvalid = s.rkvalid ∧ t.rk = s.rk ∧ t.iv = s.iv ∧
      t.src = s.src ∧ t.dst = s.dst ∧ t.len = s.len := by
  rw [h.frame]
  exact ⟨rfl, rfl, rfl, rfl, rfl, rfl, rfl⟩

theorem State.rangesAccepted_inPlace {s : State} (hin : s.src = s.dst)
    (hfit : s.src.toNat + s.len.toNat ≤ s.cfg.bufBytes) : s.RangesAccepted s.len.toNat s.len.toNat :=
  ⟨hfit, hin ▸ hfit, .inl hin⟩

section
variable {s t u : State} {out : Bytes} (hst : WroteOutput s out t) (hin : s.src = s.dst)
  (hlen : out.length = s.len.toNat)
include hst hin hlen

/-- In place, the next command's input is the output. -/
theorem WroteOutput.cmcInput : t.cmcInput = out := by
  obtain ⟨-, -, -, -, hsrc, -, htlen⟩ := hst.kept_registers
  rw [State.cmcInput, hsrc, hin, htlen, ← hlen, hst.memRead]

/-- Writing the input back over the output, in place, restores every byte of BUF. -/
theorem WroteOutput.bufByte_restored (htu : WroteOutput t s.cmcInput u) (a : Nat) : u.bufByte a = s.bufByte a := by
  obtain ⟨-, -, -, -, -, hdst, -⟩ := hst.kept_registers
  by_cases ha : s.dst.toNat ≤ a ∧ a < s.dst.toNat + s.len.toNat
  · obtain ⟨j, rfl⟩ := Nat.exists_eq_add_of_le ha.1
    have hj : j < s.len.toNat := by omega
    rw [← hdst, htu.written j (s.length_cmcInput ▸ hj), State.cmcInput, State.getD_memRead _ _ _ hj, hin, hdst]
  · have hout : a < s.dst.toNat ∨ s.dst.toNat + s.len.toNat ≤ a := by omega
    rw [htu.kept a (by rw [hdst, State.length_cmcInput]; exact hout), hst.kept a (by rw [hlen]; exact hout)]

end

/-- Two outputs one after the other leave the frame of one. -/
theorem WroteOutput.frame_trans {s t u : State} {out out' : Bytes} (hst : WroteOutput s out t)
    (htu : WroteOutput t out' u) :
    u = { s with buf := u.buf, outlen := BitVec.ofNat 16 out'.length, errf := false, err := .none, vok := false } :=
  htu.frame.trans (by rw [hst.frame])

end Sys2Proof.Machine
end

section
open Sys2Proof Sys2Proof.Machine

/-- Settles O45: the template with EcbEnc, whose output has 8·ceil(LEN/8) bytes. -/
theorem ecbencWritesThePaddedBlocks : Obligations.EcbencWritesThePaddedBlocks := by
  unfold Obligations.EcbencWritesThePaddedBlocks
  intro s
  refine ⟨_, exec_ecbenc s, s.cmcCommand_outcome .ecb .enc _ (cmcBadLen_ecb_enc _) fun _ => ?_⟩
  rw [length_ecbEnc, s.length_cmcInput, cmcOutLen]

/-- Settles O46: the template with EcbDec. -/
theorem ecbdecWritesTheDecryptedBlocks : Obligations.EcbdecWritesTheDecryptedBlocks := by
  unfold Obligations.EcbdecWritesTheDecryptedBlocks
  intro s
  refine ⟨_, exec_ecbdec s, s.cmcCommand_outcome .ecb .dec _ (cmcBadLen_ecb_dec _) fun hb => ?_⟩
  have hlen := s.length_cmcInput
  exact (length_ecbDec s.rk (by omega)).trans hlen

/-- Settles O47: the template with CbcEnc. -/
theorem cbcencWritesTheChainedBlocks : Obligations.CbcencWritesTheChainedBlocks := by
  unfold Obligations.CbcencWritesTheChainedBlocks
  intro s
  refine ⟨_, exec_cbcenc s, s.cmcCommand_outcome .cbc .enc _ (cmcBadLen_cbc .enc _) fun hb => ?_⟩
  have hlen := s.length_cmcInput
  exact (length_cbcEnc s.rk _ (by omega)).trans hlen

/-- Settles O48: the template with CbcDec. -/
theorem cbcdecWritesTheUnchainedBlocks : Obligations.CbcdecWritesTheUnchainedBlocks := by
  unfold Obligations.CbcdecWritesTheUnchainedBlocks
  intro s
  refine ⟨_, exec_cbcdec s, s.cmcCommand_outcome .cbc .dec _ (cmcBadLen_cbc .dec _) fun hb => ?_⟩
  have hlen := s.length_cmcInput
  exact (length_cbcDec s.rk (length_toBE _ _) (by omega)).trans hlen

/-- Settles O49: the template with CtsEnc. -/
theorem ctsencWritesAsManyBytes : Obligations.CtsencWritesAsManyBytes := by
  unfold Obligations.CtsencWritesAsManyBytes
  intro s
  refine ⟨_, exec_ctsenc s, s.cmcCommand_outcome .cts .enc _ (cmcBadLen_cts .enc _) fun hb => ?_⟩
  have hlen := s.length_cmcInput
  exact (length_ctsEnc s.rk _ (by omega)).trans hlen

/-- Settles O50: the template with CtsDec. -/
theorem ctsdecWritesAsManyBytes : Obligations.CtsdecWritesAsManyBytes := by
  unfold Obligations.CtsdecWritesAsManyBytes
  intro s
  refine ⟨_, exec_ctsdec s, s.cmcCommand_outcome .cts .dec _ (cmcBadLen_cts .dec _) fun hb => ?_⟩
  have hlen := s.length_cmcInput
  exact (length_ctsDec s.rk (length_toBE _ _) (by omega)).trans hlen

/-- Settles O51: on whole blocks the checks of the two modes agree, and so do their functions. -/
theorem ctsOnWholeBlocksIsCbc : Obligations.CtsOnWholeBlocksIsCbc := by
  unfold Obligations.CtsOnWholeBlocksIsCbc
  intro s h
  have hin : s.cmcInput.length % 8 = 0 := by rw [s.length_cmcInput, h]
  constructor
  · rw [exec_ctsenc, exec_cbcenc,
      State.cmcCommand_congr (s.cmcChecks_cts_eq_cbc .enc h) (ctsEnc_of_whole s.rk _ hin)]
  · rw [exec_ctsdec, exec_cbcdec,
      State.cmcCommand_congr (s.cmcChecks_cts_eq_cbc .dec h) (ctsDec_of_whole s.rk _ hin)]

/-- Settles O52: CTSENC leaves RK, IV, LEN and the range, so CTSDEC reads the ciphertext and writes the input back. -/
theorem ctsCommandsRoundTripInPlace : Obligations.CtsCommandsRoundTripInPlace := by
  unfold Obligations.CtsCommandsRoundTripInPlace
  intro s hk h8 hin hfit
  obtain ⟨t, het, ht⟩ := ctsencWritesAsManyBytes s
  obtain ⟨hst, hlen⟩ := ht.success hk (by omega) (State.rangesAccepted_inPlace hin hfit)
  obtain ⟨u, heu, hu⟩ := ctsdecWritesAsManyBytes t
  obtain ⟨hcfg, hkt, hrk, hiv, hsrc, hdst, htlen⟩ := hst.kept_registers
  have hrange : t.RangesAccepted t.len.toNat t.len.toNat :=
    State.rangesAccepted_inPlace (by rw [hsrc, hdst, hin]) (by rw [hsrc, htlen, hcfg]; exact hfit)
  obtain ⟨htu, -⟩ := hu.success (hkt.trans hk) (by rw [htlen]; omega) hrange
  rw [hst.cmcInput hin hlen, hrk, hiv, ctsDec_ctsEnc s.rk (length_toBE _ _) (by rw [s.length_cmcInput]; exact h8)]
    at htu
  refine ⟨t, u, het, heu, hst.bufByte_restored hin hlen htu, ?_⟩
  simpa only [s.length_cmcInput, BitVec.ofNat_toNat, BitVec.setWidth_eq] using hst.frame_trans htu

end

section
/-! The modular exponentiation engine (spec/44_modexp.md R97 to R104). ModExp is the power modulo n, so the commands'
results are powers modulo N, and the laws of R103 and R104 are laws of powers. -/

namespace Sys2Proof.Machine

/-! ### ModExp is the power modulo n (R97) -/

/-- The exponent's bits above position i, as a number, followed by bit i. -/
theorem div_two_pow_eq_two_mul_add_testBit (x i : Nat) :
    x / 2 ^ i = 2 * (x / 2 ^ (i + 1)) + (x.testBit i).toNat := by
  rw [pow_succ, ← Nat.div_div_eq_div_mul, Nat.toNat_testBit, Nat.div_add_mod]

/-- With the bits i and up of the exponent consumed, the loop over the remaining bits completes the power. -/
theorem modExpLoop_pow_mod (b x n i : Nat) : modExpLoop b x n i (b ^ (x / 2 ^ i) % n) = b ^ x % n := by
  induction i with
  | zero => rw [modExpLoop, pow_zero, Nat.div_one]
  | succ i ih =>
    have hsquare : b ^ (x / 2 ^ (i + 1)) % n * (b ^ (x / 2 ^ (i + 1)) % n) % n = b ^ (2 * (x / 2 ^ (i + 1))) % n := by
      rw [← Nat.mul_mod, ← pow_add, ← two_mul]
    rw [modExpLoop, ← ih, div_two_pow_eq_two_mul_add_testBit x i, hsquare]
    cases x.testBit i with
    | false => rfl
    | true => simp only [if_true, Nat.mod_mul_mod, Bool.toNat_true, pow_succ]

theorem lt_two_pow_bitCount (x : Nat) : x < 2 ^ bitCount x := by
  unfold bitCount
  split
  · omega
  · exact Nat.lt_log2_self

/-- ModExp is the power modulo n; the loop gives the power itself for n = 0, where no command calls it. -/
theorem modExp_eq_pow_mod (b x n : Nat) : modExp b x n = b ^ x % n := by
  have hloop := modExpLoop_pow_mod b x n (bitCount x)
  rwa [Nat.div_eq_of_lt (lt_two_pow_bitCount x), pow_zero] at hloop

/-! ### The commands (R99 to R102) -/

theorem exec_pkenc (s : State) : exec .pkenc s = .next (s.pkCommand s.e) := rfl

theorem exec_pkdec (s : State) : exec .pkdec s = .next (s.pkCommand s.d) := rfl

theorem exec_pksign (s : State) : exec .pksign s = .next (s.pkCommand s.d) := rfl

theorem exec_pkvfy (s : State) : exec .pkvfy s = .next s.pkVerify := rfl

section
variable {s : State}

/-- A residue modulo N fits into a register (R98). -/
theorem State.BE_toBE_mod_modulus (hw : s.n.length = s.cfg.meeBytes) (hn : BE s.n ≠ 0) (v : Nat) :
    BE (toBE (v % BE s.n) s.cfg.meeBytes) = v % BE s.n :=
  BE_toBE ((Nat.mod_lt v (Nat.pos_of_ne_zero hn)).trans (hw ▸ BE_lt s.n))

theorem State.pkCommand_of_outOfRange (exponent : Bytes) (h : BE s.n = 0 ∨ BE s.n ≤ BE s.x) :
    s.pkCommand exponent = { s with errf := true, err := .range, vok := false } :=
  if_pos h

theorem State.pkCommand_of_lt (exponent : Bytes) (hx : BE s.x < BE s.n) :
    s.pkCommand exponent =
      { s with
        y := toBE (BE s.x ^ BE exponent % BE s.n) s.cfg.meeBytes, errf := false, err := .none, vok := false } := by
  rw [← modExp_eq_pow_mod]
  exact if_neg (by omega)

/-- What R99 to R101 say of an operand below the modulus. -/
theorem State.pkCommand_result (hw : s.n.length = s.cfg.meeBytes) (exponent : Bytes) (hx : BE s.x < BE s.n) :
    s.pkCommand exponent = { s with y := (s.pkCommand exponent).y, errf := false, err := .none, vok := false } ∧
    (s.pkCommand exponent).y.length = s.cfg.meeBytes ∧
    BE (s.pkCommand exponent).y = BE s.x ^ BE exponent % BE s.n := by
  rw [State.pkCommand_of_lt exponent hx]
  exact ⟨rfl, length_toBE _ _, State.BE_toBE_mod_modulus hw (by omega) _⟩

theorem State.pkVerify_of_noModulus (hn : BE s.n = 0) :
    s.pkVerify = { s with errf := true, err := .range, vok := false } :=
  if_pos hn

theorem State.pkVerify_of_modulus (hn : BE s.n ≠ 0) :
    s.pkVerify =
      { s with
        y := toBE (BE s.x ^ BE s.e % BE s.n) s.cfg.meeBytes, errf := false, err := .none,
        vok := decide (BE s.x ^ BE s.e % BE s.n = BE s.h) } := by
  rw [← modExp_eq_pow_mod]
  exact if_neg hn

/-- What R102 says of a modulus other than 0. -/
theorem State.pkVerify_result (hw : s.n.length = s.cfg.meeBytes) (hn : BE s.n ≠ 0) :
    s.pkVerify = { s with y := s.pkVerify.y, errf := false, err := .none, vok := s.pkVerify.vok } ∧
    s.pkVerify.y.length = s.cfg.meeBytes ∧ BE s.pkVerify.y = BE s.x ^ BE s.e % BE s.n ∧
    (s.pkVerify.vok = true ↔ BE s.x ^ BE s.e % BE s.n = BE s.h) := by
  rw [State.pkVerify_of_modulus hn]
  exact ⟨rfl, length_toBE _ _, State.BE_toBE_mod_modulus hw hn _, decide_eq_true_iff⟩

end

/-! ### Valid key pairs (R103) -/

/-- Fermat's theorem for every base, multiples of p included. -/
theorem pow_modEq_self_of_dvd_sub_one {p k : Nat} (hp : p.Prime) (hk : 0 < k) (h : p - 1 ∣ k - 1) (m : Nat) :
    m ^ k ≡ m [MOD p] := by
  have hint : (m : Int) ^ k ≡ (m : Int) ^ 1 [ZMOD p] := Int.ModEq.pow_eq_pow hp h hk Nat.one_pos m
  rw [pow_one] at hint
  exact_mod_cast hint

/-- Exponents that are inverse modulo (p-1)(q-1) undo each other modulo p·q. -/
theorem pow_mod_pow_mod_eq_self {p q n e d m : Nat} (hp : p.Prime) (hq : q.Prime) (hne : p ≠ q) (hn : n = p * q)
    (hinv : e * d % ((p - 1) * (q - 1)) = 1) (hm : m < n) : (m ^ e % n) ^ d % n = m := by
  subst hn
  have hpos : 0 < e * d := Nat.pos_of_ne_zero fun h0 => by simp [h0] at hinv
  have hdvd : (p - 1) * (q - 1) ∣ e * d - 1 := by
    have hsub : (p - 1) * (q - 1) ∣ e * d - e * d % ((p - 1) * (q - 1)) := Nat.dvd_sub_mod _
    rwa [hinv] at hsub
  have hmodp : m ^ (e * d) ≡ m [MOD p] := pow_modEq_self_of_dvd_sub_one hp hpos (dvd_of_mul_right_dvd hdvd) m
  have hmodq : m ^ (e * d) ≡ m [MOD q] := pow_modEq_self_of_dvd_sub_one hq hpos (dvd_of_mul_left_dvd hdvd) m
  have hmod : m ^ (e * d) ≡ m [MOD p * q] :=
    (Nat.modEq_and_modEq_iff_modEq_mul ((Nat.coprime_primes hp hq).2 hne)).1 ⟨hmodp, hmodq⟩
  calc (m ^ e % (p * q)) ^ d % (p * q)
    _ = m ^ (e * d) % (p * q) := by rw [← Nat.pow_mod, ← pow_mul]
    _ = m := Nat.mod_eq_of_modEq hmod hm

/-! ### One command's Y as the next one's X (R103) -/

/-- What the host does between the two commands of a round trip: Y copied to X, and a value put into H. -/
def State.copyY (s : State) (h : Bytes) : State := { s with x := s.y, h := h }

/-- The state t has the parameters and the key of s, and in X the number PKENC, PKDEC or PKSIGN makes of X of s. -/
structure State.TakesPower (s : State) (exponent : Bytes) (t : State) : Prop where
  cfg : t.cfg = s.cfg
  n : t.n = s.n
  e : t.e = s.e
  d : t.d = s.d
  x : BE t.x = BE s.x ^ BE exponent % BE s.n

section
variable {s t : State} {exponent : Bytes}

theorem State.takesPower_copyY_pkCommand (exponent : Bytes) (hw : s.n.length = s.cfg.meeBytes) (hx : BE s.x < BE s.n)
    (h : Bytes) : s.TakesPower exponent ((s.pkCommand exponent).copyY h) := by
  rw [State.pkCommand_of_lt exponent hx]
  exact ⟨rfl, rfl, rfl, rfl, State.BE_toBE_mod_modulus hw (by omega) _⟩

theorem State.TakesPower.BE_y_pkCommand (ht : s.TakesPower exponent t) (hw : s.n.length = s.cfg.meeBytes)
    (hn : BE s.n ≠ 0) (exponent' : Bytes) :
    BE (t.pkCommand exponent').y = (BE s.x ^ BE exponent % BE s.n) ^ BE exponent' % BE s.n := by
  have hlt : BE t.x < BE t.n := by
    rw [ht.x, ht.n]
    exact Nat.mod_lt _ (Nat.pos_of_ne_zero hn)
  obtain ⟨-, -, hy⟩ := State.pkCommand_result (by rw [ht.n, ht.cfg, hw]) exponent' hlt
  rw [hy, ht.x, ht.n]

theorem State.TakesPower.pkVerify_status (ht : s.TakesPower exponent t) (hn : BE s.n ≠ 0) :
    t.pkVerify.errf = false ∧
    (t.pkVerify.vok = true ↔ BE t.h = (BE s.x ^ BE exponent % BE s.n) ^ BE s.e % BE s.n) := by
  rw [State.pkVerify_of_modulus (by rwa [ht.n]), ← ht.x, ← ht.n, ← ht.e]
  exact ⟨rfl, decide_eq_true_iff.trans eq_comm⟩

end

end Sys2Proof.Machine
end

section
open Sys2Proof Sys2Proof.Machine

/-- Settles O53: ModExp is the power modulo n. -/
theorem modExpIsThePowerModulo : Obligations.ModExpIsThePowerModulo := by
  unfold Obligations.ModExpIsThePowerModulo
  intro b x n hn
  rw [modExp_eq_pow_mod]
  exact ⟨Nat.mod_lt _ hn, Nat.mod_modEq _ _⟩

/-- Settles O57: a power of a product is the product of the powers. -/
theorem modExpIsMultiplicative : Obligations.ModExpIsMultiplicative := by
  unfold Obligations.ModExpIsMultiplicative
  intro m₁ m₂ e n _
  rw [modExp_eq_pow_mod, modExp_eq_pow_mod, modExp_eq_pow_mod, ← Nat.mul_mod, ← mul_pow, ← Nat.pow_mod]

/-- Settles O54: PKENC is the template with the exponent E. -/
theorem pkencComputesThePower : Obligations.PkencComputesThePower := by
  unfold Obligations.PkencComputesThePower
  intro s hs
  constructor
  · intro h
    rw [exec_pkenc, State.pkCommand_of_outOfRange s.e h]
  · intro _ hx
    exact ⟨_, exec_pkenc s, State.pkCommand_result hs.n s.e hx⟩

/-- Settles O55: PKDEC and PKSIGN are the template with the exponent D. -/
theorem pkdecAndPksignUseD : Obligations.PkdecAndPksignUseD := by
  unfold Obligations.PkdecAndPksignUseD
  intro s i hs hi
  have hexec : exec i s = .next (s.pkCommand s.d) := by
    obtain rfl | rfl := hi
    · exact exec_pkdec s
    · exact exec_pksign s
  constructor
  · intro h
    rw [hexec, State.pkCommand_of_outOfRange s.d h]
  · intro _ hx
    exact ⟨_, hexec, State.pkCommand_result hs.n s.d hx⟩

/-- Settles O56: the comparison with H decides VOK, and no branch looks at the size of X. -/
theorem pkvfyComparesWithH : Obligations.PkvfyComparesWithH := by
  unfold Obligations.PkvfyComparesWithH
  intro s hs
  constructor
  · intro hn
    rw [exec_pkvfy, State.pkVerify_of_noModulus hn]
  · intro hn
    exact ⟨_, exec_pkvfy s, State.pkVerify_result hs.n hn⟩

/-- Settles O58: the second command raises the first one's power to the other exponent, which leads back to X. -/
theorem publicKeyRoundTrips : Obligations.PublicKeyRoundTrips := by
  unfold Obligations.PublicKeyRoundTrips
  intro s p q hs hp hq hne hn _ _ _ _ hinv hx
  have hn0 : BE s.n ≠ 0 := by omega
  constructor
  · have ht := State.takesPower_copyY_pkCommand s.e hs.n hx (s.pkCommand s.e).h
    refine ⟨_, _, exec_pkenc s, exec_pkdec ((s.pkCommand s.e).copyY (s.pkCommand s.e).h), ?_⟩
    rw [ht.BE_y_pkCommand hs.n hn0, ht.d, pow_mod_pow_mod_eq_self hp hq hne hn hinv hx]
  · refine ⟨_, exec_pksign s, ?_, fun h => ?_⟩
    · rw [State.pkCommand_of_lt s.d hx]
    · have ht := State.takesPower_copyY_pkCommand s.d hs.n hx h
      have hinv' : BE s.d * BE s.e % ((p - 1) * (q - 1)) = 1 := by rwa [mul_comm]
      obtain ⟨herrf, hvok⟩ := ht.pkVerify_status hn0
      rw [pow_mod_pow_mod_eq_self hp hq hne hn hinv' hx] at hvok
      exact ⟨_, exec_pkvfy ((s.pkCommand s.d).copyY h), herrf, hvok⟩

end

section
/-! The system commands (spec/45_system_commands.md R105 to R107). NOP is the shared success and a reserved byte the
shared failure, so the rules left to say are what the host reads of them, and what it reads after SRST: every register
as zeros, BUF as before. -/

namespace Sys2Proof.Machine

/-! ### The reserved bytes (R107) -/

/-- No command's byte is among the reserved ones. -/
theorem not_reservedByte_encode (i : Instr) : ¬ ReservedByte (encode i) := by
  cases i <;> decide

theorem issueCommand_reservedByte {c : Byte} (s : State) (h : ReservedByte c) :
    issueCommand c s = .next (s.raise .illcmd) := by
  rcases issueCommand_cases c s with ⟨i, hd, -⟩ | ⟨e, -, hi⟩
  · exact absurd (encode_of_decode hd ▸ h) (not_reservedByte_encode i)
  · exact hi

/-! ### NOP (R105) -/

theorem exec_nop (s : State) : exec .nop s = .next s.succeed := rfl

/-- Only address 0x0001 is STATUS. -/
theorem locate_status {c : Config} {a : Nat} (h : locate c a = .status) : a = 1 := by
  unfold locate at h
  split_ifs at h
  · assumption
  · split at h <;> cases h

/-- Only address 0x0002 is ERR. -/
theorem locate_err {c : Config} {a : Nat} (h : locate c a = .err) : a = 2 := by
  unfold locate at h
  split_ifs at h
  · assumption
  · split at h <;> cases h

@[simp] theorem State.succeed_regBytes (s : State) (r : Reg) : s.succeed.regBytes r = s.regBytes r := by
  cases r <;> rfl

/-- A success shows at STATUS and ERR alone. -/
theorem State.hostRead_succeed (s : State) {a : Addr} (hstatus : a ≠ 0x0001) (herr : a ≠ 0x0002) :
    s.succeed.hostRead a = s.hostRead a := by
  rw [State.hostRead, State.hostRead, State.succeed_cfg]
  cases hl : locate s.cfg a.toNat with
  | status => exact absurd (BitVec.eq_of_toNat_eq (locate_status hl)) hstatus
  | err => exact absurd (BitVec.eq_of_toNat_eq (locate_err hl)) herr
  | reg r i => simp only [State.succeed_regBytes]
  | _ => rfl

/-! ### SRST (R106) -/

theorem exec_srst (s : State) : exec .srst s = .next s.clearRegisters := rfl

theorem toBE_zero (k : Nat) : toBE 0 k = zeros k := by
  simpa using toBE_BE (zeros k)

@[simp] theorem getD_zeros (k j : Nat) : (zeros k).getD j 0 = 0 := by
  rw [zeros, List.getD_eq_getElem?_getD, List.getElem?_replicate]
  split <;> rfl

theorem State.clearRegisters_regBytes (s : State) (r : Reg) :
    s.clearRegisters.regBytes r = zeros (r.width s.cfg) := by
  cases r with
  | n | e | d | x | y | h => rfl
  | _ => exact toBE_zero _

theorem State.clearRegisters_rkBytes (s : State) (i : Nat) : s.clearRegisters.rkBytes i = zeros 6 := by
  have hzero : (Vector.replicate 16 (0 : Subkey))[i]?.getD 0 = 0 := by
    rw [Vector.getElem?_replicate]
    split <;> rfl
  rw [State.rkBytes, State.clearRegisters_rk, hzero]
  exact toBE_zero 6

theorem State.hostRead_clearRegisters_below (s : State) {a : Addr} (h : a.toNat < 0x4000) :
    s.clearRegisters.hostRead a = 0x00 := by
  rw [State.hostRead, State.clearRegisters_cfg]
  cases hl : locate s.cfg a.toNat with
  | buf off =>
    obtain ⟨-, ha⟩ := locate_buf hl
    omega
  | reg r i => simp only [State.clearRegisters_regBytes, getD_zeros]
  | rk i j => simp only [State.clearRegisters_rkBytes, getD_zeros]
  | status => exact State.statusByte_succeed s.clearRegisters
  | cmd | err | reserved => rfl

theorem State.hostRead_clearRegisters_above (s : State) {a : Addr} (h : 0x4000 ≤ a.toNat) :
    s.clearRegisters.hostRead a = s.hostRead a := by
  rcases address_covered s.cfg a.isLt with hlow | ⟨r, hr⟩ | hrk | hbuf | hres
  · omega
  · have hclear := r.range_clear s.cfg
    omega
  · omega
  · rw [State.hostRead, State.hostRead, State.clearRegisters_cfg, locate_of_buf s.cfg hbuf]
    rfl
  · rw [State.hostRead_reserved hres]
    exact State.hostRead_reserved (s := s.clearRegisters) hres

end Sys2Proof.Machine
end

section
open Sys2Proof Sys2Proof.Machine

/-- Settles O4: no command has a reserved byte, so the write to CMD raises E_ILLCMD. -/
theorem reservedBytesRaiseIllcmd : Obligations.ReservedBytesRaiseIllcmd := by
  unfold Obligations.ReservedBytesRaiseIllcmd
  intro s c hc
  constructor
  · rw [hostWrite_cmd]
    exact issueCommand_reservedByte s hc
  · exact State.hostRead_err _

/-- Settles O20: SRST clears what the map has below BUF; of the other commands' effects none touches an operand. -/
theorem softResetKeepsBufOnly : Obligations.SoftResetKeepsBufOnly := by
  unfold Obligations.SoftResetKeepsBufOnly
  constructor
  · intro s
    exact ⟨_, exec_srst s, rfl, fun a => s.hostRead_clearRegisters_below, fun a => s.hostRead_clearRegisters_above⟩
  · intro i s t hi h
    cases exec_effect h with
    | srst => exact absurd rfl hi
    | _ => exact ⟨rfl, rfl, rfl, rfl, rfl, rfl, rfl, rfl, rfl, rfl, rfl⟩

/-- Settles O19: NOP is a success and nothing else. -/
theorem nopClearsTheStatusOnly : Obligations.NopClearsTheStatusOnly := by
  unfold Obligations.NopClearsTheStatusOnly
  intro s
  refine ⟨_, exec_nop s, rfl, ?_, State.hostRead_err _, fun a => s.hostRead_succeed⟩
  rw [State.hostRead_status, State.statusByte_succeed]

end

section
/-! How every access and every command ends (spec/60_exceptions.md R112, R113, R123): each access answers a next state, a
command with ERRF set is a failure entry and nothing else, and PKVFY alone can leave VOK set. -/

namespace Sys2Proof.Machine

variable {s t : State} {i : Instr}

/-! ### No stop and no stuck state (R123) -/

theorem issueCommand_answers_next (c : Byte) (s : State) : ∃ t, issueCommand c s = .next t := by
  rcases issueCommand_cases c s with ⟨i, -, hi⟩ | ⟨e, -, he⟩
  · rw [hi]
    exact exec_answers_next i s
  · exact ⟨_, he⟩

theorem hostWrite_answers_next (a : Addr) (b : Byte) (s : State) : ∃ t, hostWrite a b s = .next t := by
  rcases hostWrite_cases a b s with ⟨-, hcmd⟩ | ⟨-, hstore⟩
  · rw [hcmd]
    exact issueCommand_answers_next b s
  · exact ⟨_, hstore⟩

theorem hostEvent_answers_next (ev : HostEvent) (s : State) : ∃ t, hostEvent ev s = .next t := by
  cases ev with
  | read a => exact ⟨_, rfl⟩
  | write a b => exact hostWrite_answers_next a b s
  | hardReset => exact ⟨_, rfl⟩

theorem step_answers_next (s : State) : ∃ t, step s = .next t := by
  rcases step_cases s with ⟨-, hidle⟩ | ⟨ev, rest, -, hev⟩
  · exact ⟨s, hidle⟩
  · rw [hev]
    exact hostEvent_answers_next ev _

/-! ### Failures (R112) -/

/-- The codes of R109 but E_NONE are 0x01 to 0x06. -/
theorem ErrCode.code_bounds {c : ErrCode} (hc : c ≠ .none) : 0x01 ≤ c.code.toNat ∧ c.code.toNat ≤ 0x06 := by
  cases c with
  | none => exact absurd rfl hc
  | _ => decide

/-- Of a command's effects only the failure sets ERRF. -/
theorem ExecEffect.eq_raise_of_errf (h : ExecEffect s i t) (hf : t.errf = true) :
    ∃ c : ErrCode, c ≠ .none ∧ t = s.raise c := by
  cases h with
  | failed _ c hc => exact ⟨c, hc, rfl⟩
  | _ => nomatch hf

theorem issueCommand_eq_raise_of_errf {b : Byte} (h : issueCommand b s = .next t) (hf : t.errf = true) :
    ∃ c : ErrCode, c ≠ .none ∧ t = s.raise c := by
  rcases issueCommand_cases b s with ⟨i, -, hi⟩ | ⟨e, -, he⟩
  · exact (exec_effect (hi.symm.trans h)).eq_raise_of_errf hf
  · obtain rfl : s.raise .illcmd = t := by simpa using he.symm.trans h
    exact ⟨.illcmd, ErrCode.noConfusion, rfl⟩

/-- A failure entry in the terms of the statements: the whole next state and the six codes. -/
theorem failedWith_of_eq_raise (h : ∃ c : ErrCode, c ≠ .none ∧ t = s.raise c) :
    ∃ c : ErrCode, t = FailedWith s c ∧ 0x01 ≤ c.code.toNat ∧ c.code.toNat ≤ 0x06 := by
  obtain ⟨c, hc, ht⟩ := h
  exact ⟨c, ht, ErrCode.code_bounds hc⟩

/-! ### Successes (R113, R115) -/

/-- ERRF clear means ERR 0x00, since every command writes both. -/
theorem ExecEffect.err_code_of_success (h : ExecEffect s i t) (hf : t.errf = false) : t.err.code = 0x00 := by
  by_contra herr
  exact absurd (hf.symm.trans (h.statusConsistent.errf.2 herr)) (by decide)

theorem ExecEffect.vok_eq_false (h : ExecEffect s i t) (hi : i ≠ .pkvfy) : t.vok = false := by
  cases h with
  | pkvfy => exact absurd rfl hi
  | _ => rfl

theorem State.pkVerify_vok_iff (s : State) :
    s.pkVerify.vok = true ↔ BE s.n ≠ 0 ∧ BE s.x ^ BE s.e % BE s.n = BE s.h := by
  by_cases hn : BE s.n = 0
  · simp [State.pkVerify_of_noModulus hn, hn]
  · simp [State.pkVerify_of_modulus hn, hn]

end Sys2Proof.Machine
end

section
open Sys2Proof Sys2Proof.Machine

/-- Settles O17: of a command's effects, and of a reserved byte's, only the failure entry sets ERRF. -/
theorem failureChangesTheStatusOnly : Obligations.FailureChangesTheStatusOnly := by
  unfold Obligations.FailureChangesTheStatusOnly
  constructor
  · intro i s t h hf
    exact failedWith_of_eq_raise ((exec_effect h).eq_raise_of_errf hf)
  · intro b s t h hf
    rw [hostWrite_cmd] at h
    exact failedWith_of_eq_raise (issueCommand_eq_raise_of_errf h hf)

/-- Settles O18: ERR follows ERRF in every effect; VOK is decided by PKVFY's comparison and cleared by every other
command. -/
theorem successClearsTheRecord : Obligations.SuccessClearsTheRecord := by
  unfold Obligations.SuccessClearsTheRecord
  intro i s t h
  refine ⟨(exec_effect h).err_code_of_success, ?_⟩
  by_cases hi : i = .pkvfy
  · subst hi
    obtain rfl : s.pkVerify = t := by simpa using (exec_pkvfy s).symm.trans h
    simpa using s.pkVerify_vok_iff
  · simp [(exec_effect h).vok_eq_false hi, hi]

/-- Settles O5: a read and the reset are next states as they stand, a write stores or issues a command, and a step takes
one of these or nothing. -/
theorem everyHostEventHasANextState : Obligations.EveryHostEventHasANextState := by
  unfold Obligations.EveryHostEventHasANextState
  exact ⟨fun s ev => hostEvent_answers_next ev s, step_answers_next⟩

end

section
/-! The hardware reset (spec/70_reset_and_hazards.md R124 to R126). BUF and the power-on count are no part of what SRST
clears, so it does not matter which goes first: the reset is SRST of the device whose BUF is already unknown. -/

namespace Sys2Proof.Machine

theorem State.hardwareReset_eq_clearRegisters (s : State) :
    s.hardwareReset = State.clearRegisters { s with buf := [], powerOns := s.powerOns + 1 } := rfl

theorem State.hostRead_hardwareReset_below (s : State) {a : Addr} (h : a.toNat < 0x4000) :
    s.hardwareReset.hostRead a = 0x00 := by
  rw [s.hardwareReset_eq_clearRegisters]
  exact State.hostRead_clearRegisters_below _ h

/-- A reset at the front of the queue is the next step (R124). -/
theorem step_of_hardReset {s : State} {rest : List HostEvent} (h : s.pending = .hardReset :: rest) :
    step s = .next (State.hardwareReset { s with pending := rest }) :=
  step_of_pending h

end Sys2Proof.Machine
end

section
open Sys2Proof Sys2Proof.Machine

/-- Settles O21: the reset is SRST but for BUF and the power-on count, and below BUF it reads as SRST does. -/
theorem hardwareResetAgreesWithSoftReset : Obligations.HardwareResetAgreesWithSoftReset := by
  unfold Obligations.HardwareResetAgreesWithSoftReset
  intro s rest hp
  exact ⟨_, _, step_of_hardReset hp, exec_srst _, rfl, fun _ => State.hostRead_hardwareReset_below _⟩

end
